-- ==== Sys2Proof/Word.lean ====
section
/-! DEFINITION. The values the datapath moves: six-bit bytes, signs, cells and index cells
(spec 00_scope.md R7, 10_state.md R11 to R13), and the names of the six index registers (R16). -/

namespace Sys2Proof

/-- A byte of the machine, a digit 0..63 (R7). It is carried as six bits on the ports (R47). -/
abbrev Byte := BitVec 6

/-- The 31-bit port image of a cell (R47). -/
abbrev CellImage := BitVec 31

/-- The 13-bit port image of an index cell (R48). -/
abbrev IndexImage := BitVec 13

/-- A sign is never computed from a magnitude (R7, R13). -/
inductive Sign where
  | pos
  | neg
deriving DecidableEq, Repr, Inhabited

/-- A cell: a sign and five bytes, `b0` the most significant (R7, R11). All values are legal, and
a negative zero is not a positive zero. -/
structure Cell where
  sign : Sign
  b0 : Byte
  b1 : Byte
  b2 : Byte
  b3 : Byte
  b4 : Byte
deriving DecidableEq, Repr, Inhabited

/-- An index cell: a sign and two bytes, `b0` the more significant (R7, R12). -/
structure IndexCell where
  sign : Sign
  b0 : Byte
  b1 : Byte
deriving DecidableEq, Repr, Inhabited

/-- The six index registers, numbered from one as selectors and opcodes number them (R16). -/
inductive IndexReg where
  | i1
  | i2
  | i3
  | i4
  | i5
  | i6
deriving DecidableEq, Repr

end Sys2Proof
end

