-- ==== Sys2Proof/Syntax.lean ====
section
/-! DEFINITION. The 24 instructions of spec/opcode_table.json, one constructor a row (30_encoding.md R54), and the
operand fields they all share (R46, R49). -/

namespace Sys2Proof

/-- The operand part of an instruction cell (R46, R49): the signed address `S`,`AA`, the index selector `I` and the
field `F = (left:right)`. Every bit pattern is an operand: a selector above 6, or a field outside the 21 valid ones,
is a fault of the instruction that carries it (R56, R57), not another instruction. -/
structure Operand where
  sign : Sign
  b0 : Byte
  b1 : Byte
  index : Byte
  left : BitVec 3
  right : BitVec 3
deriving DecidableEq, Repr, Inhabited

/-- The implemented instructions, opcodes 8 to 31 (R54). -/
inductive Instr where
  /-- `LDA`, opcode 8: load accumulator (R91). -/
  | lda (o : Operand)
  /-- `LD1`, opcode 9: load index register 1 (R92). -/
  | ld1 (o : Operand)
  /-- `LD2`, opcode 10: load index register 2 (R93). -/
  | ld2 (o : Operand)
  /-- `LD3`, opcode 11: load index register 3 (R94). -/
  | ld3 (o : Operand)
  /-- `LD4`, opcode 12: load index register 4 (R95). -/
  | ld4 (o : Operand)
  /-- `LD5`, opcode 13: load index register 5 (R96). -/
  | ld5 (o : Operand)
  /-- `LD6`, opcode 14: load index register 6 (R97). -/
  | ld6 (o : Operand)
  /-- `LDX`, opcode 15: load extension (R98). -/
  | ldx (o : Operand)
  /-- `LDAN`, opcode 16: load accumulator negative (R101). -/
  | ldan (o : Operand)
  /-- `LD1N`, opcode 17: load index register 1 negative (R102). -/
  | ld1n (o : Operand)
  /-- `LD2N`, opcode 18: load index register 2 negative (R103). -/
  | ld2n (o : Operand)
  /-- `LD3N`, opcode 19: load index register 3 negative (R104). -/
  | ld3n (o : Operand)
  /-- `LD4N`, opcode 20: load index register 4 negative (R105). -/
  | ld4n (o : Operand)
  /-- `LD5N`, opcode 21: load index register 5 negative (R106). -/
  | ld5n (o : Operand)
  /-- `LD6N`, opcode 22: load index register 6 negative (R107). -/
  | ld6n (o : Operand)
  /-- `LDXN`, opcode 23: load extension negative (R108). -/
  | ldxn (o : Operand)
  /-- `STA`, opcode 24: store accumulator (R111). -/
  | sta (o : Operand)
  /-- `ST1`, opcode 25: store index register 1 (R112). -/
  | st1 (o : Operand)
  /-- `ST2`, opcode 26: store index register 2 (R113). -/
  | st2 (o : Operand)
  /-- `ST3`, opcode 27: store index register 3 (R114). -/
  | st3 (o : Operand)
  /-- `ST4`, opcode 28: store index register 4 (R115). -/
  | st4 (o : Operand)
  /-- `ST5`, opcode 29: store index register 5 (R116). -/
  | st5 (o : Operand)
  /-- `ST6`, opcode 30: store index register 6 (R117). -/
  | st6 (o : Operand)
  /-- `STX`, opcode 31: store extension (R118). -/
  | stx (o : Operand)
deriving DecidableEq, Repr

/-- The operand fields of an instruction. -/
def Instr.operand : Instr → Operand
  | .lda o => o
  | .ld1 o => o
  | .ld2 o => o
  | .ld3 o => o
  | .ld4 o => o
  | .ld5 o => o
  | .ld6 o => o
  | .ldx o => o
  | .ldan o => o
  | .ld1n o => o
  | .ld2n o => o
  | .ld3n o => o
  | .ld4n o => o
  | .ld5n o => o
  | .ld6n o => o
  | .ldxn o => o
  | .sta o => o
  | .st1 o => o
  | .st2 o => o
  | .st3 o => o
  | .st4 o => o
  | .st5 o => o
  | .st6 o => o
  | .stx o => o

end Sys2Proof
end

