-- ==== Sys2Proof/WellFormed.lean ====
section
/-! DEFINITION. The legal instructions: an implemented opcode, a selector 0..6 and a valid field
(spec 30_encoding.md R51, R52, R58). Every other instruction raises a fault the spec names. -/

namespace Sys2Proof

/-- The selector names no register or one of the six: 0..6 (R51). -/
def Operand.selectorOk (o : Operand) : Bool :=
  decide (o.index.toNat ≤ 6)

/-- The field is valid: `left <= right <= 5` (R52). -/
def Operand.fieldOk (o : Operand) : Bool :=
  decide (o.left.toNat ≤ o.right.toNat) && decide (o.right.toNat ≤ 5)

/-- Both operand checks that need no register (R56, R57). -/
def Operand.wellFormed (o : Operand) : Bool :=
  o.selectorOk && o.fieldOk

/-- A legal instruction (R58). It may still raise `AddressOutOfRange`, which depends on registers. -/
def Instr.wellFormed (i : Instr) : Bool :=
  i.operand.wellFormed

end Sys2Proof
end

