-- ==== Sys2Proof/Decode.lean ====
section
/-! DEFINITION. The port images of cells and index cells (spec 30_encoding.md R47, R48), the decoder from an
instruction cell to an instruction or a rejection by name (R46, R49 to R55), the encoder, and the host's table-word
entry point. -/

namespace Sys2Proof

/-! ## Port images -/

/-- The sign bit of an image: 0 positive, 1 negative (R47, decision D21). -/
def Sign.bit : Sign → BitVec 1
  | .pos => 0#1
  | .neg => 1#1

/-- The sign a sign bit stands for (R47). -/
def Sign.ofBit (b : BitVec 1) : Sign :=
  if b = 0#1 then .pos else .neg

/-- The 31-bit image `sign b0 b1 b2 b3 b4`, sign in bit 30, `b4` in bits 5..0 (R47). -/
def Cell.toImage (c : Cell) : CellImage :=
  c.sign.bit ++ c.b0 ++ c.b1 ++ c.b2 ++ c.b3 ++ c.b4

/-- The cell a 31-bit image stands for (R47). -/
def Cell.ofImage (w : CellImage) : Cell where
  sign := Sign.ofBit (w.extractLsb' 30 1)
  b0 := w.extractLsb' 24 6
  b1 := w.extractLsb' 18 6
  b2 := w.extractLsb' 12 6
  b3 := w.extractLsb' 6 6
  b4 := w.extractLsb' 0 6

/-- The 13-bit image `sign b0 b1` of an index cell (R48). -/
def IndexCell.toImage (v : IndexCell) : IndexImage :=
  v.sign.bit ++ v.b0 ++ v.b1

/-- The index cell a 13-bit image stands for (R48). -/
def IndexCell.ofImage (w : IndexImage) : IndexCell where
  sign := Sign.ofBit (w.extractLsb' 12 1)
  b0 := w.extractLsb' 6 6
  b1 := w.extractLsb' 0 6

/-! ## The field byte -/

/-- `unpack(m) = (m / 8, m % 8)`: left and right of a field byte, each in 0..7 (R71). -/
def unpack (m : Byte) : BitVec 3 × BitVec 3 :=
  (BitVec.ofNat 3 (m.toNat / 8), BitVec.ofNat 3 (m.toNat % 8))

/-- `pack(left, right) = left*8 + right` (R71). -/
def pack (left right : BitVec 3) : Byte :=
  BitVec.ofNat 6 (left.toNat * 8 + right.toNat)

/-! ## Decoding -/

/-- Why a cell is no instruction of this machine. -/
inductive Reject where
  /-- The opcode byte is outside 8..31 (R55). -/
  | unimplementedOpcode (opcode : Byte)
deriving DecidableEq, Repr

/-- The operand fields of an instruction cell (R46, R50 to R52). -/
def operandOf (c : Cell) : Operand where
  sign := c.sign
  b0 := c.b0
  b1 := c.b1
  index := c.b2
  left := (unpack c.b3).1
  right := (unpack c.b3).2

/-- The opcode map (R54), total on cells: `b4` selects the instruction, every other field is an operand. An opcode
outside 8..31 is rejected by name, and its other fields are not examined (R55). -/
def decode (c : Cell) : Except Reject Instr :=
  match c.b4.toNat with
  | 8 => .ok (.lda (operandOf c))
  | 9 => .ok (.ld1 (operandOf c))
  | 10 => .ok (.ld2 (operandOf c))
  | 11 => .ok (.ld3 (operandOf c))
  | 12 => .ok (.ld4 (operandOf c))
  | 13 => .ok (.ld5 (operandOf c))
  | 14 => .ok (.ld6 (operandOf c))
  | 15 => .ok (.ldx (operandOf c))
  | 16 => .ok (.ldan (operandOf c))
  | 17 => .ok (.ld1n (operandOf c))
  | 18 => .ok (.ld2n (operandOf c))
  | 19 => .ok (.ld3n (operandOf c))
  | 20 => .ok (.ld4n (operandOf c))
  | 21 => .ok (.ld5n (operandOf c))
  | 22 => .ok (.ld6n (operandOf c))
  | 23 => .ok (.ldxn (operandOf c))
  | 24 => .ok (.sta (operandOf c))
  | 25 => .ok (.st1 (operandOf c))
  | 26 => .ok (.st2 (operandOf c))
  | 27 => .ok (.st3 (operandOf c))
  | 28 => .ok (.st4 (operandOf c))
  | 29 => .ok (.st5 (operandOf c))
  | 30 => .ok (.st6 (operandOf c))
  | 31 => .ok (.stx (operandOf c))
  | _ => .error (.unimplementedOpcode c.b4)

/-- Decoding from the 31-bit image of the `Execute` port (R26, R47). -/
def decodeImage (w : CellImage) : Except Reject Instr :=
  decode (Cell.ofImage w)

/-! ## Encoding -/

/-- The opcode byte of each instruction (R54). -/
def Instr.opcode : Instr → Byte
  | .lda _ => 8#6
  | .ld1 _ => 9#6
  | .ld2 _ => 10#6
  | .ld3 _ => 11#6
  | .ld4 _ => 12#6
  | .ld5 _ => 13#6
  | .ld6 _ => 14#6
  | .ldx _ => 15#6
  | .ldan _ => 16#6
  | .ld1n _ => 17#6
  | .ld2n _ => 18#6
  | .ld3n _ => 19#6
  | .ld4n _ => 20#6
  | .ld5n _ => 21#6
  | .ld6n _ => 22#6
  | .ldxn _ => 23#6
  | .sta _ => 24#6
  | .st1 _ => 25#6
  | .st2 _ => 26#6
  | .st3 _ => 27#6
  | .st4 _ => 28#6
  | .st5 _ => 29#6
  | .st6 _ => 30#6
  | .stx _ => 31#6

/-- The instruction cell of an instruction (R46). -/
def encode (i : Instr) : Cell where
  sign := i.operand.sign
  b0 := i.operand.b0
  b1 := i.operand.b1
  b2 := i.operand.index
  b3 := pack i.operand.left i.operand.right
  b4 := i.opcode

/-- The instruction's 31-bit image (R47). -/
def encodeImage (i : Instr) : CellImage :=
  (encode i).toImage

/-! ## The host's table words -/

/-- The image in a table word of `nbits` bits, bits above `nbits` being zero: bit 0 of the word is bit 0 of the image
(spec/opcode_table.json, over the image of R47). A word with a bit above bit 30 is no image of a cell (log 9). -/
def tableWordImage (nbits w : Nat) : Option CellImage :=
  if w % 2 ^ nbits < 2 ^ 31 then some (BitVec.ofNat 31 (w % 2 ^ nbits)) else none

/-- The instruction the decoder reads from a table word. -/
def decodeTableWord (nbits w : Nat) : Option Instr :=
  match tableWordImage nbits w with
  | none => none
  | some v =>
    match decodeImage v with
    | .ok i => some i
    | .error _ => none

end Sys2Proof
end

