-- ==== Sys2Proof/Config.lean ====
section
/-! DEFINITION. What the spec fixes for the machine as a whole, and its one open parameter that a result can depend
on, `MEM_INIT` (spec 00_scope.md R6, 10_state.md R29, decision D12). `PORT_BINDING` and `EXEC_LATENCY` are open too;
no rule depends on them and the model has neither (log 12). -/

namespace Sys2Proof

/-- `MEM_CELLS`: the memory has exactly 4000 cells, addresses 0..3999 (R6, R23). -/
def Config.memCells : Nat := 4000

/-- `MEM_INIT`, the content of memory after Reset, unconstrained: `memInit k a` is what cell `a` holds after the
`k`-th Reset transaction until something is written to it (R29, R38, 93_implementation_defined.md U6 "any value per
cell, drawn once at reset"). A FREE VALUE: it has no body, so a claim holds for every `MEM_INIT` (log 5). -/
opaque Config.memInit : Nat → Nat → Cell

end Sys2Proof
end

