-- ==== Sys2Proof/Machine/State.lean ====
section
/-! DEFINITION. The state of the datapath (spec 10_state.md R10 to R29), the transactions of its host interface
(R24 to R28) and the ways a step can stop. -/

namespace Sys2Proof.Machine

/-- The overflow flag `OV`: two values, storage only (R20). -/
inductive Overflow where
  | off
  | on
deriving DecidableEq, Repr

/-- The comparison indicator `CI`: three values, storage only (R21). -/
inductive Comparison where
  | less
  | equal
  | greater
deriving DecidableEq, Repr

/-- The status an `Execute` returns: `OK` or one of the four faults (60_exceptions.md R121). -/
inductive Status where
  /-- The instruction completed. -/
  | ok
  /-- Opcode outside 8..31 (R122). -/
  | unimplementedOpcode
  /-- Index selector above 6 (R123). -/
  | invalidIndexSelector
  /-- `left > right` or `right > 5` (R124). -/
  | invalidFieldSpec
  /-- Effective address outside 0..3999 (R125). -/
  | addressOutOfRange
deriving DecidableEq, Repr

/-- A location the host names in `HostRead` and `HostWrite` (R27). A memory location `mem a` exists for `a` in
0..3999 only. A register number outside the list cannot be written here (log 10). -/
inductive Location where
  | a
  | x
  | index (r : IndexReg)
  | ov
  | ci
  | mem (addr : Nat)
deriving DecidableEq, Repr

/-- The image of one location's value, as `HostRead` returns it and `HostWrite` takes it (R27, R28, R47, R48). -/
inductive PortValue where
  | cell (w : CellImage)
  | index (w : IndexImage)
  | ov (w : BitVec 1)
  | ci (w : BitVec 2)
deriving DecidableEq, Repr

/-- The four transactions, the host's only means of acting on the block (R24). `Execute` takes the instruction as its
31-bit image (R26). -/
inductive Transaction where
  | reset
  | execute (w : CellImage)
  | hostRead (loc : Location)
  | hostWrite (loc : Location) (v : PortValue)
deriving DecidableEq, Repr

/-- What a completing transaction returns: `Execute` a status (R26), `HostRead` a value (R27). `Reset` and `HostWrite`
return nothing (R25, R28). -/
inductive Response where
  | status (e : Status)
  | value (v : PortValue)
deriving DecidableEq, Repr

/-- The memory `M` (R23). `cells` lists, by strictly rising address, the cells written since the latest Reset;
every other cell holds its `MEM_INIT` value (R38), the free value `Config.memInit epoch a`, where `epoch` counts
the Reset transactions performed. `epoch` is the model's own field (log 5), the canonical form is in log 6. -/
structure Memory where
  epoch : Nat
  cells : List (Nat × Cell)
deriving DecidableEq, Repr

/-- The state: the architectural state of R10 (`a` to `mem`), and the two sides of the host interface, which are the
model's own fields: `pending`, the transactions the host will issue, oldest first (log 1), and `response`, what the
transaction performed by the latest step returned (log 3). There is no program counter (R19), no control or status
register (R22) and no fault register (R127). -/
structure State where
  a : Cell
  x : Cell
  i1 : IndexCell
  i2 : IndexCell
  i3 : IndexCell
  i4 : IndexCell
  i5 : IndexCell
  i6 : IndexCell
  ov : Overflow
  ci : Comparison
  mem : Memory
  pending : List Transaction
  response : Option Response
deriving DecidableEq, Repr

/-- The reasons the machine stops with a fault: NONE. The four faults of the spec end their `Execute` transaction with
a status code and the block is ready for the next transaction (R120, R127, R129), so they are next states whose
`response` is that status (log 2); no step ends here. Safe: nothing is proved of a stopped machine. -/
inductive Fault where
deriving DecidableEq, Repr

/-- The reasons a step is refused. Each of the first three is a host move the interface does not offer; the spec says
that a model refuses it (log 10). All are safe: the run ends, so nothing is proved of what would follow. -/
inductive Refusal where
  /-- Raised by `HostRead` and `HostWrite` of `M[a]` with `a` above 3999: no such location (R27, U9). Safe. -/
  | noSuchLocation (addr : Nat)
  /-- Raised by `HostWrite` of `CI` with the unused image `11` (R48, U8). Safe. -/
  | unusedComparisonImage
  /-- Raised by `HostWrite` of a value that is not of the location's type (R28). Safe. -/
  | valueNotOfLocationType
  /-- Raised by `exec` for an instruction without a meaning; no arm raises it. Safe. -/
  | notModelled (mnemonic : String)
deriving DecidableEq, Repr

/-- `(pos,[0,0,0,0,0])`, the reset value of the two cell registers (R29). -/
def plusZero : Cell := ⟨.pos, 0#6, 0#6, 0#6, 0#6, 0#6⟩

/-- `(pos,[0,0])`, the reset value of the six index registers (R29). -/
def plusZeroIndex : IndexCell := ⟨.pos, 0#6, 0#6⟩

/-- The state after Reset (R29): registers positive zero, `OV` off, `CI` equal, memory holding `MEM_INIT`; the block is
idle and waits for the host's first transaction (70_reset_and_hazards.md R141). -/
def State.reset : State where
  a := plusZero
  x := plusZero
  i1 := plusZeroIndex
  i2 := plusZeroIndex
  i3 := plusZeroIndex
  i4 := plusZeroIndex
  i5 := plusZeroIndex
  i6 := plusZeroIndex
  ov := .off
  ci := .equal
  mem := ⟨0, []⟩
  pending := []
  response := none

end Sys2Proof.Machine
end

