-- ==== Sys2Proof/Machine/Ops.lean ====
section
/-! DEFINITION. The named operations over memory and registers (spec 00_scope.md R8, 20_memory.md), how an `Execute`
completes, and how a fault is taken (60_exceptions.md R120, R127). -/

namespace Sys2Proof.Machine

/-! ## Memory -/

/-- What an address that is not listed holds: no value written since Reset. It then reads as `MEM_INIT`. -/
def Memory.unlisted : Option Cell := none

/-- The value listed for address `a`. -/
def lookupCells : List (Nat × Cell) → Nat → Option Cell
  | [], _ => Memory.unlisted
  | (k, v) :: rest, a => if k = a then some v else lookupCells rest a

/-- List `v` for address `a`, keeping the addresses strictly rising. -/
def insertCells : List (Nat × Cell) → Nat → Cell → List (Nat × Cell)
  | [], a, v => [(a, v)]
  | (k, w) :: rest, a, v =>
    if a < k then (a, v) :: (k, w) :: rest
    else if a = k then (a, v) :: rest
    else (k, w) :: insertCells rest a v

/-- The cell written to address `a` since the latest Reset, if any. -/
def Memory.lookup (m : Memory) (a : Nat) : Option Cell :=
  lookupCells m.cells a

/-- `MemRead(a, 1)` (R8): the latest value written to `a`, or `MEM_INIT[a]` if there was none since Reset (R38). Every
caller has checked `a <= 3999`. -/
def Memory.read (m : Memory) (a : Nat) : Cell :=
  (m.lookup a).getD (Config.memInit m.epoch a)

/-- `MemWrite(a, 1, v)` (R8): replaces the whole cell. Every caller has checked `a <= 3999`. -/
def Memory.write (m : Memory) (a : Nat) (v : Cell) : Memory :=
  ⟨m.epoch, insertCells m.cells a v⟩

/-- Memory after a Reset transaction: it holds a `MEM_INIT` (R25, R29, R140); each Reset draws its own (U6, log 5). -/
def Memory.reinit (m : Memory) : Memory :=
  ⟨m.epoch + 1, []⟩

/-- The canonical form: addresses strictly rising, all of them addresses of the memory (R39). No entry can equal what
an unlisted address holds, because that is no value. -/
abbrev Memory.wf (m : Memory) : Prop :=
  m.cells.Pairwise (fun p q => p.1 < q.1) ∧ ∀ p ∈ m.cells, p.1 < Config.memCells

/-! ## Registers, flags and ports -/

/-- Replace the accumulator `x[A]` (R14). -/
def State.setA (s : State) (v : Cell) : State := { s with a := v }

/-- Replace the extension `x[X]` (R15). -/
def State.setX (s : State) (v : Cell) : State := { s with x := v }

/-- Read index register `x[Ir]` (R16). -/
def State.readIndex (s : State) : IndexReg → IndexCell
  | .i1 => s.i1
  | .i2 => s.i2
  | .i3 => s.i3
  | .i4 => s.i4
  | .i5 => s.i5
  | .i6 => s.i6

/-- Replace index register `x[Ir]`, both bytes and the sign (R16). -/
def State.setIndex (s : State) (r : IndexReg) (v : IndexCell) : State :=
  match r with
  | .i1 => { s with i1 := v }
  | .i2 => { s with i2 := v }
  | .i3 => { s with i3 := v }
  | .i4 => { s with i4 := v }
  | .i5 => { s with i5 := v }
  | .i6 => { s with i6 := v }

/-- Replace the overflow flag; only `Reset` and `HostWrite` do (R20). -/
def State.setOv (s : State) (v : Overflow) : State := { s with ov := v }

/-- Replace the comparison indicator; only `Reset` and `HostWrite` do (R21). -/
def State.setCi (s : State) (v : Comparison) : State := { s with ci := v }

/-- Replace the memory cell at `addr` (R23). -/
def State.setMem (s : State) (addr : Nat) (v : Cell) : State :=
  { s with mem := s.mem.write addr v }

/-- Replace what the host will issue. -/
def State.setPending (s : State) (ts : List Transaction) : State := { s with pending := ts }

/-- Put a transaction's output on the port. -/
def State.respond (s : State) (r : Option Response) : State := { s with response := r }

/-! ## Completing an `Execute`, and taking a fault -/

/-- The instruction completes with status `OK` (R121 code 0). -/
def State.complete (s : State) : State :=
  s.respond (some (.status .ok))

/-- `raise e`, taking a fault (R8, R120, R127): the `Execute` transaction completes with the status of `e`. Nothing is
written, nothing saved, no mode or mask changes and control goes nowhere, for the block has none of these. There is
no return from a fault and nothing to restore (R129): the next transaction finds the block ready. -/
def State.raise (s : State) (e : Status) : State :=
  s.respond (some (.status e))

/-- No transaction is pending: the block holds its state (R137, R141) and returns nothing. -/
def State.idle (s : State) : State :=
  s.respond none

/-- The fault a rejected instruction cell raises (R55, R122). -/
def rejectStatus : Reject → Status
  | .unimplementedOpcode _ => .unimplementedOpcode

/-! ## Placing an instruction on the port -/

/-- The host issues the instruction in a table word next (10_state.md R26). A word that is no image of a cell is not
issued (log 9). -/
def State.issueTableWord (s : State) (nbits w : Nat) : State :=
  match tableWordImage nbits w with
  | none => s
  | some v => s.setPending (.execute v :: s.pending)

end Sys2Proof.Machine
end

