-- ==== Sys2Proof/Machine/Operands.lean ====
section
/-! DEFINITION. The datapath functions of spec 40_datapath_functions.md: sign (R70), field unit (R73 to R75), address
codec (R78, R79), index conversion (R81, R82), effective address (R83 to R85) and the operand checks of `Execute`
(R86). -/

namespace Sys2Proof

/-! ## Sign -/

/-- `flip` (R70), applied whatever the magnitude. -/
def Sign.flip : Sign → Sign
  | .pos => .neg
  | .neg => .pos

/-- `(flip(t.sign), t.b)` (R100). -/
def Cell.flipSign (c : Cell) : Cell :=
  { c with sign := c.sign.flip }

/-! ## Field unit -/

/-- Byte `c.b[j]`, `b[0]` the most significant (R7). A cell has no byte `j > 4`; none is asked for (log 16). -/
def Cell.byte (c : Cell) : Nat → Byte
  | 0 => c.b0
  | 1 => c.b1
  | 2 => c.b2
  | 3 => c.b3
  | 4 => c.b4
  | _ => 0#6

/-- The cell with the given sign and bytes. -/
def Cell.ofBytes (sign : Sign) (byte : Nat → Byte) : Cell :=
  ⟨sign, byte 0, byte 1, byte 2, byte 3, byte 4⟩

/-- What a field selects: whether the sign takes part, the first position, and how many bytes (R73). -/
structure FieldRange where
  signIn : Bool
  lo : Nat
  n : Nat
deriving DecidableEq, Repr

/-- `fieldRange(left, right)` (R73), for a valid field. The one helper of `getField` and `setField`. -/
def fieldRange (left right : Nat) : FieldRange where
  signIn := decide (left = 0)
  lo := max left 1
  n := right + 1 - max left 1

/-- `getField(c, (left,right))` (R74): the selected bytes right-justified over zeros, the sign copied only if
selected. -/
def getField (c : Cell) (left right : Nat) : Cell :=
  let f := fieldRange left right
  Cell.ofBytes (if f.signIn then c.sign else .pos)
    (fun j => if j < 5 - f.n then 0#6 else c.byte (f.lo - 1 + (j - (5 - f.n))))

/-- `setField(c, (left,right), v)` (R75): the `n` low bytes of `v` go into the field of `c`, the sign only if
selected. -/
def setField (c : Cell) (left right : Nat) (v : Cell) : Cell :=
  let f := fieldRange left right
  Cell.ofBytes (if f.signIn then v.sign else c.sign)
    (fun j => if f.lo - 1 ≤ j ∧ j < f.lo - 1 + f.n then v.byte (5 - f.n + (j - (f.lo - 1))) else c.byte j)

/-! ## Address codec -/

/-- `decode(bytes)` (R78): base-64 digits, most significant first. R78 defines it for at least one byte; that the empty
sequence gives 0 is the model's choice (log 16), and no step asks for it. -/
def decodeBytes (bs : List Byte) : Nat :=
  bs.foldl (fun acc b => acc * 64 + b.toNat) 0

/-- `decodeSigned(sign, bytes)` (R78). -/
def decodeSigned (sign : Sign) (bs : List Byte) : Int :=
  match sign with
  | .pos => (decodeBytes bs : Int)
  | .neg => -(decodeBytes bs : Int)

/-- `encodeSigned(v)` (R79), a partial function: defined for -4095..4095 only (D24, log 13). No instruction uses it. -/
def encodeSigned (v : Int) : Option IndexCell :=
  if v.natAbs ≤ 4095 then
    some ⟨if 0 ≤ v then .pos else .neg, BitVec.ofNat 6 (v.natAbs / 64), BitVec.ofNat 6 (v.natAbs % 64)⟩
  else none

/-! ## Index conversion -/

/-- `indexToCell` (R81): the two bytes become the two least significant; the three others are zero (D13). -/
def indexToCell (v : IndexCell) : Cell :=
  ⟨v.sign, 0#6, 0#6, 0#6, v.b0, v.b1⟩

/-- `cellToIndex` (R82): the three most significant bytes are dropped without a check (D14). -/
def cellToIndex (c : Cell) : IndexCell :=
  ⟨c.sign, c.b3, c.b4⟩

namespace Machine

/-! ## Effective address -/

/-- The index register a selector 1..6 names (R51, R84). -/
def selectIndex (b : Byte) : Option IndexReg :=
  match b.toNat with
  | 1 => some .i1
  | 2 => some .i2
  | 3 => some .i3
  | 4 => some .i4
  | 5 => some .i5
  | 6 => some .i6
  | _ => none

/-- `addressOf(instr)` (R83). -/
def addressOf (o : Operand) : Int :=
  decodeSigned o.sign [o.b0, o.b1]

/-- `indexDelta(s)` (R84): 0 without an index register, else its signed value. A selector above 6 has faulted before
(R86, log 16). -/
def indexDelta (s : State) (selector : Byte) : Int :=
  match selectIndex selector with
  | none => 0
  | some r => decodeSigned (s.readIndex r).sign [(s.readIndex r).b0, (s.readIndex r).b1]

/-- `EA(instr)` (R85), exact, before the range check. -/
def effectiveAddress (o : Operand) (s : State) : Int :=
  addressOf o + indexDelta s o.index

/-- The checks of `Execute` after the opcode, in their order, ending in the memory address (R86, R126). -/
def resolve (o : Operand) (s : State) : Except Status Nat :=
  if o.selectorOk = false then .error .invalidIndexSelector
  else if o.fieldOk = false then .error .invalidFieldSpec
  else if effectiveAddress o s < 0 ∨ (Config.memCells : Int) ≤ effectiveAddress o s then .error .addressOutOfRange
  else .ok (effectiveAddress o s).toNat

/-- The field of the memory cell at `addr` that an instruction names (R74, R90). -/
def fetchField (o : Operand) (addr : Nat) (s : State) : Cell :=
  getField (s.mem.read addr) o.left.toNat o.right.toNat

/-- The memory cell at `addr` with `v` stored into the field an instruction names (R75, R110). -/
def mergeField (o : Operand) (addr : Nat) (v : Cell) (s : State) : Cell :=
  setField (s.mem.read addr) o.left.toNat o.right.toNat v

end Machine

end Sys2Proof
end

