-- ==== Sys2Proof/Machine/Access.lean ====
section
/-! DEFINITION. What the instructions share: the operand checks, then one access, then status `OK`
(spec 40_datapath_functions.md R86). Reads use the state before the instruction and the one write comes last
(70_reset_and_hazards.md R146). -/

namespace Sys2Proof.Machine

/-- Run `act` at the effective address and complete, or raise the first fault that applies (R86). -/
def atAddress (o : Operand) (s : State) (act : Nat → State) : Host.Outcome State Fault Refusal :=
  match resolve o s with
  | .error e => .next (s.raise e)
  | .ok addr => .next (act addr).complete

/-- A load (R90): the fetched field goes to `write`. -/
def loadTo (write : State → Cell → State) (o : Operand) (s : State) : Host.Outcome State Fault Refusal :=
  atAddress o s (fun addr => write s (fetchField o addr s))

/-- A negative load (R100): the sign of the fetched field is flipped first. -/
def loadNegativeTo (write : State → Cell → State) (o : Operand) (s : State) : Host.Outcome State Fault Refusal :=
  atAddress o s (fun addr => write s (fetchField o addr s).flipSign)

/-- A store (R110): the low bytes of `v` go into the named field of the memory cell. -/
def storeFrom (v : Cell) (o : Operand) (s : State) : Host.Outcome State Fault Refusal :=
  atAddress o s (fun addr => s.setMem addr (mergeField o addr v s))

/-- The register write of an index load (R82, R90). -/
def writeIndexCell (r : IndexReg) (s : State) (t : Cell) : State :=
  s.setIndex r (cellToIndex t)

end Sys2Proof.Machine
end

