-- ==== Sys2Proof/Machine/Load.lean ====
section
/-! DEFINITION. The eight loads (spec 41_load.md R90 to R98). -/

namespace Sys2Proof.Machine

/-- `LDA` (opcode 8): load accumulator (R91). -/
def execLda (o : Operand) (s : State) : Host.Outcome State Fault Refusal :=
  loadTo State.setA o s

/-- `LD1` (opcode 9): load index register 1 (R92). -/
def execLd1 (o : Operand) (s : State) : Host.Outcome State Fault Refusal :=
  loadTo (writeIndexCell .i1) o s

/-- `LD2` (opcode 10): load index register 2 (R93). -/
def execLd2 (o : Operand) (s : State) : Host.Outcome State Fault Refusal :=
  loadTo (writeIndexCell .i2) o s

/-- `LD3` (opcode 11): load index register 3 (R94). -/
def execLd3 (o : Operand) (s : State) : Host.Outcome State Fault Refusal :=
  loadTo (writeIndexCell .i3) o s

/-- `LD4` (opcode 12): load index register 4 (R95). -/
def execLd4 (o : Operand) (s : State) : Host.Outcome State Fault Refusal :=
  loadTo (writeIndexCell .i4) o s

/-- `LD5` (opcode 13): load index register 5 (R96). -/
def execLd5 (o : Operand) (s : State) : Host.Outcome State Fault Refusal :=
  loadTo (writeIndexCell .i5) o s

/-- `LD6` (opcode 14): load index register 6 (R97). -/
def execLd6 (o : Operand) (s : State) : Host.Outcome State Fault Refusal :=
  loadTo (writeIndexCell .i6) o s

/-- `LDX` (opcode 15): load extension (R98). -/
def execLdx (o : Operand) (s : State) : Host.Outcome State Fault Refusal :=
  loadTo State.setX o s

end Sys2Proof.Machine
end

