-- ==== Sys2Proof/Machine/LoadNegative.lean ====
section
/-! DEFINITION. The eight negative loads (spec 42_load_negative.md R100 to R108). -/

namespace Sys2Proof.Machine

/-- `LDAN` (opcode 16): load accumulator negative (R101). -/
def execLdan (o : Operand) (s : State) : Host.Outcome State Fault Refusal :=
  loadNegativeTo State.setA o s

/-- `LD1N` (opcode 17): load index register 1 negative (R102). -/
def execLd1n (o : Operand) (s : State) : Host.Outcome State Fault Refusal :=
  loadNegativeTo (writeIndexCell .i1) o s

/-- `LD2N` (opcode 18): load index register 2 negative (R103). -/
def execLd2n (o : Operand) (s : State) : Host.Outcome State Fault Refusal :=
  loadNegativeTo (writeIndexCell .i2) o s

/-- `LD3N` (opcode 19): load index register 3 negative (R104). -/
def execLd3n (o : Operand) (s : State) : Host.Outcome State Fault Refusal :=
  loadNegativeTo (writeIndexCell .i3) o s

/-- `LD4N` (opcode 20): load index register 4 negative (R105). -/
def execLd4n (o : Operand) (s : State) : Host.Outcome State Fault Refusal :=
  loadNegativeTo (writeIndexCell .i4) o s

/-- `LD5N` (opcode 21): load index register 5 negative (R106). -/
def execLd5n (o : Operand) (s : State) : Host.Outcome State Fault Refusal :=
  loadNegativeTo (writeIndexCell .i5) o s

/-- `LD6N` (opcode 22): load index register 6 negative (R107). -/
def execLd6n (o : Operand) (s : State) : Host.Outcome State Fault Refusal :=
  loadNegativeTo (writeIndexCell .i6) o s

/-- `LDXN` (opcode 23): load extension negative (R108). -/
def execLdxn (o : Operand) (s : State) : Host.Outcome State Fault Refusal :=
  loadNegativeTo State.setX o s

end Sys2Proof.Machine
end

