-- ==== Sys2Proof/Machine/Store.lean ====
section
/-! DEFINITION. The eight stores (spec 43_store.md R110 to R118). -/

namespace Sys2Proof.Machine

/-- `STA` (opcode 24): store accumulator (R111). -/
def execSta (o : Operand) (s : State) : Host.Outcome State Fault Refusal :=
  storeFrom s.a o s

/-- `ST1` (opcode 25): store index register 1 (R112). -/
def execSt1 (o : Operand) (s : State) : Host.Outcome State Fault Refusal :=
  storeFrom (indexToCell (s.readIndex .i1)) o s

/-- `ST2` (opcode 26): store index register 2 (R113). -/
def execSt2 (o : Operand) (s : State) : Host.Outcome State Fault Refusal :=
  storeFrom (indexToCell (s.readIndex .i2)) o s

/-- `ST3` (opcode 27): store index register 3 (R114). -/
def execSt3 (o : Operand) (s : State) : Host.Outcome State Fault Refusal :=
  storeFrom (indexToCell (s.readIndex .i3)) o s

/-- `ST4` (opcode 28): store index register 4 (R115). -/
def execSt4 (o : Operand) (s : State) : Host.Outcome State Fault Refusal :=
  storeFrom (indexToCell (s.readIndex .i4)) o s

/-- `ST5` (opcode 29): store index register 5 (R116). -/
def execSt5 (o : Operand) (s : State) : Host.Outcome State Fault Refusal :=
  storeFrom (indexToCell (s.readIndex .i5)) o s

/-- `ST6` (opcode 30): store index register 6 (R117). -/
def execSt6 (o : Operand) (s : State) : Host.Outcome State Fault Refusal :=
  storeFrom (indexToCell (s.readIndex .i6)) o s

/-- `STX` (opcode 31): store extension (R118). -/
def execStx (o : Operand) (s : State) : Host.Outcome State Fault Refusal :=
  storeFrom s.x o s

end Sys2Proof.Machine
end

