-- ==== Sys2Proof/Machine/Dispatch.lean ====
section
/-! DEFINITION. One arm per instruction (spec 40_datapath_functions.md R86, 30_encoding.md R54). -/

namespace Sys2Proof.Machine

def exec (i : Instr) (s : State) : Host.Outcome State Fault Refusal :=
  match i with
  | .lda o => Sys2Proof.Machine.execLda o s
  | .ld1 o => Sys2Proof.Machine.execLd1 o s
  | .ld2 o => Sys2Proof.Machine.execLd2 o s
  | .ld3 o => Sys2Proof.Machine.execLd3 o s
  | .ld4 o => Sys2Proof.Machine.execLd4 o s
  | .ld5 o => Sys2Proof.Machine.execLd5 o s
  | .ld6 o => Sys2Proof.Machine.execLd6 o s
  | .ldx o => Sys2Proof.Machine.execLdx o s
  | .ldan o => Sys2Proof.Machine.execLdan o s
  | .ld1n o => Sys2Proof.Machine.execLd1n o s
  | .ld2n o => Sys2Proof.Machine.execLd2n o s
  | .ld3n o => Sys2Proof.Machine.execLd3n o s
  | .ld4n o => Sys2Proof.Machine.execLd4n o s
  | .ld5n o => Sys2Proof.Machine.execLd5n o s
  | .ld6n o => Sys2Proof.Machine.execLd6n o s
  | .ldxn o => Sys2Proof.Machine.execLdxn o s
  | .sta o => Sys2Proof.Machine.execSta o s
  | .st1 o => Sys2Proof.Machine.execSt1 o s
  | .st2 o => Sys2Proof.Machine.execSt2 o s
  | .st3 o => Sys2Proof.Machine.execSt3 o s
  | .st4 o => Sys2Proof.Machine.execSt4 o s
  | .st5 o => Sys2Proof.Machine.execSt5 o s
  | .st6 o => Sys2Proof.Machine.execSt6 o s
  | .stx o => Sys2Proof.Machine.execStx o s

end Sys2Proof.Machine
end

