-- ==== Sys2Proof/Machine/Flags.lean ====
section
/-! DEFINITION. The two flags and the status as port images (spec 30_encoding.md R48, 60_exceptions.md R121). No
instruction computes, reads or writes a flag (10_state.md R20, R21, 40_datapath_functions.md R87), so there is no flag
computation to give. -/

namespace Sys2Proof.Machine

/-- The image of `OV`: 0 off, 1 on (R48). -/
def Overflow.toImage : Overflow → BitVec 1
  | .off => 0#1
  | .on => 1#1

/-- The value of `OV` a 1-bit image stands for (R48). -/
def Overflow.ofImage (w : BitVec 1) : Overflow :=
  if w = 0#1 then .off else .on

/-- The image of `CI`: 00 less, 01 equal, 10 greater (R48). -/
def Comparison.toImage : Comparison → BitVec 2
  | .less => 0b00#2
  | .equal => 0b01#2
  | .greater => 0b10#2

/-- The value of `CI` a 2-bit image stands for; `11` stands for none (R48, U8). -/
def Comparison.ofImage (w : BitVec 2) : Option Comparison :=
  if w = 0b00#2 then some .less
  else if w = 0b01#2 then some .equal
  else if w = 0b10#2 then some .greater
  else none

/-- The 3-bit status code on the port (R121, decision D9); 5..7 are never returned. -/
def Status.code : Status → BitVec 3
  | .ok => 0#3
  | .unimplementedOpcode => 1#3
  | .invalidIndexSelector => 2#3
  | .invalidFieldSpec => 3#3
  | .addressOutOfRange => 4#3

end Sys2Proof.Machine
end

