-- ==== Sys2Proof/Machine/HostPort.lean ====
section
/-! DEFINITION. The three host transactions that run no instruction: `Reset`, `HostRead`, `HostWrite`
(spec 10_state.md R25, R27, R28, R29). -/

namespace Sys2Proof.Machine

/-- `Reset` (R25, R140): every register and flag takes its reset value and memory holds a `MEM_INIT`. It returns
nothing, runs no instruction (R141), and leaves what the host will issue next to the host. -/
def performReset (s : State) : State :=
  { State.reset with mem := s.mem.reinit, pending := s.pending }

/-- The image of a location's value, or the refusal of a location that does not exist (R27). -/
def readLocation (s : State) : Location → Except Refusal PortValue
  | .a => .ok (.cell s.a.toImage)
  | .x => .ok (.cell s.x.toImage)
  | .index r => .ok (.index (s.readIndex r).toImage)
  | .ov => .ok (.ov s.ov.toImage)
  | .ci => .ok (.ci s.ci.toImage)
  | .mem addr =>
    if addr < Config.memCells then .ok (.cell (s.mem.read addr).toImage) else .error (.noSuchLocation addr)

/-- Replace the whole value of one location (R28). A location that does not exist, a value of another type and the
unused image of `CI` are refused (R27, R28, R48). -/
def writeLocation (s : State) : Location → PortValue → Except Refusal State
  | .a, .cell w => .ok (s.setA (Cell.ofImage w))
  | .x, .cell w => .ok (s.setX (Cell.ofImage w))
  | .index r, .index w => .ok (s.setIndex r (IndexCell.ofImage w))
  | .ov, .ov w => .ok (s.setOv (Overflow.ofImage w))
  | .ci, .ci w =>
    match Comparison.ofImage w with
    | some v => .ok (s.setCi v)
    | none => .error .unusedComparisonImage
  | .mem addr, .cell w =>
    if addr < Config.memCells then .ok (s.setMem addr (Cell.ofImage w)) else .error (.noSuchLocation addr)
  | _, _ => .error .valueNotOfLocationType

/-- `HostRead(loc)` (R27): the value is returned and nothing changes. -/
def performRead (loc : Location) (s : State) : Host.Outcome State Fault Refusal :=
  match readLocation s loc with
  | .ok v => .next (s.respond (some (.value v)))
  | .error r => .refused r

/-- `HostWrite(loc, value)` (R28): the location is replaced and nothing is returned. -/
def performWrite (loc : Location) (v : PortValue) (s : State) : Host.Outcome State Fault Refusal :=
  match writeLocation s loc v with
  | .ok s' => .next (s'.respond none)
  | .error r => .refused r

end Sys2Proof.Machine
end

