-- ==== Sys2Proof/Machine/Perform.lean ====
section
/-! DEFINITION. Performing one transaction of the host (spec 10_state.md R24 to R28). -/

namespace Sys2Proof.Machine

/-- `Execute(image)` (R26, R86): the instruction the image decodes to is executed; an image that decodes to none raises
the fault its rejection names (R122). -/
def performExecute (w : CellImage) (s : State) : Host.Outcome State Fault Refusal :=
  match decodeImage w with
  | .ok i => exec i s
  | .error r => .next (s.raise (rejectStatus r))

/-- The block performs one transaction, atomically (R24). -/
def perform : Transaction → State → Host.Outcome State Fault Refusal
  | .reset, s => .next (performReset s)
  | .execute w, s => performExecute w s
  | .hostRead loc, s => performRead loc s
  | .hostWrite loc v, s => performWrite loc v s

end Sys2Proof.Machine
end

