-- ==== Sys2Proof/Machine/Step.lean ====
section
/-! DEFINITION. One step: the block performs the oldest transaction the host has pending (spec 10_state.md R24), or
holds its state when there is none. It fetches nothing (R19). -/

namespace Sys2Proof.Machine

/-- One step of the machine: the oldest pending transaction is taken from the list and performed. -/
def step (s : State) : Host.Outcome State Fault Refusal :=
  match s.pending with
  | [] => .next s.idle
  | t :: rest => perform t (s.setPending rest)

/-- `s` with the instruction in a table word issued by the host as its very next transaction (log 1). -/
def State.withFetchWord (s : State) (nbits w : Nat) : State :=
  s.issueTableWord nbits w

end Sys2Proof.Machine
end

