-- ==== Sys2Proof/Machine/TextCodec.lean ====
section
/-! DEFINITION. The text forms of signs, cells and instructions (spec 30_encoding.md R60 to R68, decisions D16 to D18).
The codec is outside the block (R5, R64) and the machine never calls it; it is given because the spec's examples are
written in it (log 15). Text is a list of characters. -/

namespace Sys2Proof.TextCodec

/-- Why a text is refused. The first three names are the source's (R64); the others name what D18 says a codec
refuses. -/
inductive TextError where
  /-- The mnemonic token is not in the table (R64). -/
  | unknownMnemonic
  /-- A sign token, alone or before an address, is neither `+` nor `-` (R64, R68). -/
  | malformedSign
  /-- `L > R` or `R > 5` (R64). -/
  | invalidFieldSpec
  /-- The address magnitude is above 4095 (D18). -/
  | addressTooLarge
  /-- The index digit is above 6 (D18). -/
  | indexTooLarge
  /-- The line has none of the shapes of R61 (log 15). -/
  | malformedLine
deriving DecidableEq, Repr

/-! ## Signs and digits -/

/-- A sign renders as `+` or `-` (R68). -/
def renderSign : Sign → List Char
  | .pos => ['+']
  | .neg => ['-']

/-- A sign parses from a single `+` or `-` (R68). -/
def parseSign (t : List Char) : Except TextError Sign :=
  if t = ['+'] then .ok .pos
  else if t = ['-'] then .ok .neg
  else .error .malformedSign

/-- The decimal digit of `d`, for `d` below 10. -/
def digitChar (d : Nat) : Char :=
  Char.ofNat (48 + d)

/-- Whether a character is a decimal digit. -/
def isDecimal (c : Char) : Bool :=
  decide (48 ≤ c.toNat) && decide (c.toNat ≤ 57)

/-- The value of a decimal digit. -/
def digitValue (c : Char) : Nat :=
  c.toNat - 48

/-- A number below 10000 in decimal, no leading zeros. -/
def decimal (n : Nat) : List Char :=
  if n < 10 then [digitChar n]
  else if n < 100 then [digitChar (n / 10), digitChar (n % 10)]
  else if n < 1000 then [digitChar (n / 100), digitChar (n / 10 % 10), digitChar (n % 10)]
  else [digitChar (n / 1000), digitChar (n / 100 % 10), digitChar (n / 10 % 10), digitChar (n % 10)]

/-- The number a sequence of decimal digits stands for. -/
def decimalValue (ds : List Char) : Nat :=
  ds.foldl (fun acc c => acc * 10 + digitValue c) 0

/-! ## The plain form -/

/-- One byte as a zero-padded two-digit decimal (R60). -/
def renderByte (b : Byte) : List Char :=
  [digitChar (b.toNat / 10), digitChar (b.toNat % 10)]

/-- The plain rendering of a cell: the sign and the five bytes, single spaces between (R60). -/
def renderPlain (c : Cell) : List Char :=
  renderSign c.sign ++ [' '] ++ renderByte c.b0 ++ [' '] ++ renderByte c.b1 ++ [' '] ++ renderByte c.b2 ++ [' ']
    ++ renderByte c.b3 ++ [' '] ++ renderByte c.b4

/-! ## The mnemonic form -/

/-- The register letter of an opcode: `A`, `1`..`6`, `X` by its low three bits (R53, R62). -/
def registerChar (opcode : Nat) : Char :=
  if opcode % 8 = 0 then 'A' else if opcode % 8 = 7 then 'X' else digitChar (opcode % 8)

/-- The mnemonic of an implemented opcode: `LD` or `ST`, the register, `N` for a negative load (R62). -/
def mnemonic (opcode : Nat) : List Char :=
  if opcode < 16 then ['L', 'D', registerChar opcode]
  else if opcode < 24 then ['L', 'D', registerChar opcode, 'N']
  else ['S', 'T', registerChar opcode]

/-- The opcodes with a mnemonic (R54). -/
def opcodes : List Nat :=
  List.range' 8 24

/-- The opcode of a mnemonic (R62). -/
def opcodeOf (t : List Char) : Option Nat :=
  opcodes.find? (fun c => mnemonic c == t)

/-- The signed address: decimal, `-` for a negative sign and nothing for a positive one, so that `-0` keeps its sign
(R61, D18). -/
def renderAddress (sign : Sign) (magnitude : Nat) : List Char :=
  (if sign = .neg then ['-'] else []) ++ decimal magnitude

/-- `,index`, omitted for 0 (R65). -/
def renderIndex (i : Nat) : List Char :=
  if i = 0 then [] else [',', digitChar i]

/-- `(L:R)`, omitted for the default `(0:5)` (R63, R65). -/
def renderField (left right : Nat) : List Char :=
  if left = 0 ∧ right = 5 then [] else ['(', digitChar left, ':', digitChar right, ')']

/-- The mnemonic form of a legal instruction cell (R65). A cell with another opcode has none; a selector above 6 or an
invalid field has no text either (log 15). -/
def render (c : Cell) : Option (List Char) :=
  match decode c with
  | .error _ => none
  | .ok i =>
    if i.wellFormed then
      some (mnemonic c.b4.toNat ++ [' '] ++ renderAddress c.sign (decodeBytes [c.b0, c.b1]) ++ renderIndex c.b2.toNat
        ++ renderField i.operand.left.toNat i.operand.right.toNat)
    else none

/-- The optional `(L:R)` that ends the line; absent, the default `(0:5)` (R63, R64). -/
def parseField (t : List Char) : Except TextError (Nat × Nat) :=
  match t with
  | [] => .ok (0, 5)
  | ['(', l, ':', r, ')'] =>
    if isDecimal l && isDecimal r then
      if digitValue l ≤ digitValue r ∧ digitValue r ≤ 5 then .ok (digitValue l, digitValue r)
      else .error .invalidFieldSpec
    else .error .malformedLine
  | _ => .error .malformedLine

/-- The optional comma and index digit; absent, 0 (R64). The rest of the line is returned. -/
def parseIndex (t : List Char) : Except TextError (Nat × List Char) :=
  match t with
  | ',' :: d :: rest =>
    if isDecimal d then
      if digitValue d ≤ 6 then .ok (digitValue d, rest) else .error .indexTooLarge
    else .error .malformedLine
  | _ => .ok (0, t)

/-- The sign of the address, and what follows it (R64, D18). An address that starts with a digit is positive; any other
character in that place is its sign token, and fails with `MalformedSign` if it is neither `+` nor `-`. That a `+` is
refused as a malformed line (D18: "no `+` when positive"), that a missing address is one too, and that every character
there which is no digit counts as a sign token (also a second space, a comma or a parenthesis) is the model's choice
(log 15). -/
def addressSign (t : List Char) : Except TextError (Sign × List Char) :=
  match t with
  | [] => .error .malformedLine
  | c :: rest =>
    if isDecimal c then .ok (.pos, t)
    else
      match parseSign [c] with
      | .ok .neg => .ok (.neg, rest)
      | .ok .pos => .error .malformedLine
      | .error e => .error e

/-- The signed decimal address (R64, D18). The rest of the line is returned. -/
def parseAddress (t : List Char) : Except TextError (Sign × Nat × List Char) :=
  match addressSign t with
  | .error e => .error e
  | .ok (sign, ds) =>
    let digits := ds.takeWhile isDecimal
    if digits = [] then .error .malformedLine
    else if 4095 < decimalValue digits then .error .addressTooLarge
    else .ok (sign, decimalValue digits, ds.dropWhile isDecimal)

/-- What follows the mnemonic: one space, the address, the optional index and field (R61, R64). -/
def parseOperands (opcode : Nat) (t : List Char) : Except TextError Cell :=
  match t with
  | ' ' :: rest => do
    let (sign, magnitude, rest) ← parseAddress rest
    let (index, rest) ← parseIndex rest
    let (left, right) ← parseField rest
    .ok ⟨sign, BitVec.ofNat 6 (magnitude / 64), BitVec.ofNat 6 (magnitude % 64), BitVec.ofNat 6 index,
      BitVec.ofNat 6 (8 * left + right), BitVec.ofNat 6 opcode⟩
  | _ => .error .malformedLine

/-- Parsing one line to one cell (R64). -/
def parse (t : List Char) : Except TextError Cell :=
  match opcodeOf (t.takeWhile (fun c => c != ' ')) with
  | none => .error .unknownMnemonic
  | some opcode => parseOperands opcode (t.dropWhile (fun c => c != ' '))

end Sys2Proof.TextCodec
end

