-- ==== Sys2Proof/Safety.lean ====
section
/-! DEFINITION. What counts as a good state and a good run, and the words the statements are made in: the effects of the
instructions said byte by byte and the checks of `Execute` said in numbers, both apart from the functions the meanings
call. -/

namespace Sys2Proof.Machine

/-- The invariant: memory keeps its canonical form, and lists only addresses the memory has (20_memory.md R39). -/
def State.Inv (s : State) : Prop := s.mem.wf

/-- The transactions the interface offers (10_state.md R27, R28, 30_encoding.md R48): `HostRead` and `HostWrite` of a
location that exists, with a value of its type that is not the unused image of `CI`. -/
def Transaction.offered : Transaction → Bool
  | .reset => true
  | .execute _ => true
  | .hostRead (.mem addr) => decide (addr ≤ 3999)
  | .hostRead _ => true
  | .hostWrite .a (.cell _) => true
  | .hostWrite .x (.cell _) => true
  | .hostWrite (.index _) (.index _) => true
  | .hostWrite .ov (.ov _) => true
  | .hostWrite .ci (.ci w) => decide (w ≠ 0b11#2)
  | .hostWrite (.mem addr) (.cell _) => decide (addr ≤ 3999)
  | .hostWrite _ _ => false

/-! ## The operand checks, in numbers -/

/-- The field is one of the 21 valid ones (30_encoding.md R52). -/
def fieldValid (o : Operand) : Prop :=
  o.left.toNat ≤ o.right.toNat ∧ o.right.toNat ≤ 5

/-- The effective address is an address of the memory (40_datapath_functions.md R85). -/
def addressInRange (o : Operand) (s : State) : Prop :=
  0 ≤ effectiveAddress o s ∧ effectiveAddress o s ≤ 3999

/-- A signed base-64 pair (R50, R78). -/
def signedPair (sign : Sign) (hi lo : Byte) : Int :=
  if sign = .neg then -(64 * (hi.toNat : Int) + lo.toNat) else 64 * (hi.toNat : Int) + lo.toNat

/-- The signed value of the index register numbered `k`, and 0 for any other `k` (R51, R84). -/
def displacement (s : State) (k : Nat) : Int :=
  if k = 1 then signedPair s.i1.sign s.i1.b0 s.i1.b1
  else if k = 2 then signedPair s.i2.sign s.i2.b0 s.i2.b1
  else if k = 3 then signedPair s.i3.sign s.i3.b0 s.i3.b1
  else if k = 4 then signedPair s.i4.sign s.i4.b0 s.i4.b1
  else if k = 5 then signedPair s.i5.sign s.i5.b0 s.i5.b1
  else if k = 6 then signedPair s.i6.sign s.i6.b0 s.i6.b1
  else 0

/-- The signed address in an instruction image, from its bits 30 and 29..18 (30_encoding.md R49, R50). -/
def imageAddress (w : CellImage) : Int :=
  if w.toNat / 2 ^ 30 = 1 then -((w.toNat / 2 ^ 18 % 4096 : Nat) : Int) else ((w.toNat / 2 ^ 18 % 4096 : Nat) : Int)

/-- The 3-bit status code `Execute` returns for an image: the first check that fails, in the order of R86 and R126,
each on its bits of the image (R49), with the numbers of R121. -/
def imageStatusCode (w : CellImage) (s : State) : Nat :=
  if w.toNat % 64 < 8 ∨ 31 < w.toNat % 64 then 1
  else if 6 < w.toNat / 2 ^ 12 % 64 then 2
  else if w.toNat / 2 ^ 6 % 8 < w.toNat / 2 ^ 9 % 8 ∨ 5 < w.toNat / 2 ^ 6 % 8 then 3
  else if imageAddress w + displacement s (w.toNat / 2 ^ 12 % 64) < 0
      ∨ 3999 < imageAddress w + displacement s (w.toNat / 2 ^ 12 % 64) then 4
  else 0

/-! ## The effects, byte by byte -/

/-- Byte `j` of the field `(left:right)` of `m`, right-justified over zeros (R74): the field's last byte, position
`right`, arrives at byte 4. -/
def fieldByte (m : Cell) (left right j : Nat) : Byte :=
  if 5 ≤ j + (right + 1 - max left 1) then m.byte (j + right - 5) else 0#6

/-- The sign of the field: the cell's if position 0 is selected, else positive (R74). -/
def fieldSign (m : Cell) (left : Nat) : Sign :=
  if left = 0 then m.sign else .pos

/-- Byte `j` of cell `m` after `v` is stored into its field `(left:right)` (R75): positions `max(left,1)..right` take
the low bytes of `v`, the others stay. -/
def storedByte (m v : Cell) (left right j : Nat) : Byte :=
  if max left 1 ≤ j + 1 ∧ j + 1 ≤ right then v.byte (j + 5 - right) else m.byte j

/-- The sign of cell `m` after `v` is stored into its field (R75). -/
def storedSign (m v : Cell) (left : Nat) : Sign :=
  if left = 0 then v.sign else m.sign

/-- The state after an `Execute` that returns status `e` and has otherwise left `s`. -/
def State.returned (s : State) (e : Status) : State :=
  { s with response := some (.status e) }

/-- The faults of an instruction with an implemented opcode, in their order, with nothing else changed (R86, R123 to
R127). -/
def FaultsInOrder (i : Instr) (s : State) : Prop :=
  (6 < i.operand.index.toNat → exec i s = .next (s.returned .invalidIndexSelector)) ∧
  (i.operand.index.toNat ≤ 6 → ¬ fieldValid i.operand → exec i s = .next (s.returned .invalidFieldSpec)) ∧
  (i.operand.index.toNat ≤ 6 → fieldValid i.operand → ¬ addressInRange i.operand s →
    exec i s = .next (s.returned .addressOutOfRange))

/-- An instruction that loads a cell register: `put` writes the destination. `turn` is what is done to the field's
sign. -/
def LoadsCell (mk : Operand → Instr) (opcode : Nat) (turn : Sign → Sign) (put : State → Cell → State) : Prop :=
  ∀ (o : Operand) (s : State),
    (mk o).opcode.toNat = opcode ∧ (mk o).operand = o ∧ FaultsInOrder (mk o) s ∧
    (o.index.toNat ≤ 6 → fieldValid o → addressInRange o s →
      ∃ t : Cell, exec (mk o) s = .next ((put s t).returned .ok) ∧
        t.sign = turn (fieldSign (s.mem.read (effectiveAddress o s).toNat) o.left.toNat) ∧
        ∀ j < 5, t.byte j = fieldByte (s.mem.read (effectiveAddress o s).toNat) o.left.toNat o.right.toNat j)

/-- An instruction that loads an index register: the two low bytes of the field (R82). -/
def LoadsIndex (mk : Operand → Instr) (opcode : Nat) (turn : Sign → Sign) (put : State → IndexCell → State) : Prop :=
  ∀ (o : Operand) (s : State),
    (mk o).opcode.toNat = opcode ∧ (mk o).operand = o ∧ FaultsInOrder (mk o) s ∧
    (o.index.toNat ≤ 6 → fieldValid o → addressInRange o s →
      ∃ t : IndexCell, exec (mk o) s = .next ((put s t).returned .ok) ∧
        t.sign = turn (fieldSign (s.mem.read (effectiveAddress o s).toNat) o.left.toNat) ∧
        t.b0 = fieldByte (s.mem.read (effectiveAddress o s).toNat) o.left.toNat o.right.toNat 3 ∧
        t.b1 = fieldByte (s.mem.read (effectiveAddress o s).toNat) o.left.toNat o.right.toNat 4)

/-- An instruction that stores `source s` into the named field of the addressed cell, and writes nothing else. -/
def StoresField (mk : Operand → Instr) (opcode : Nat) (source : State → Cell) : Prop :=
  ∀ (o : Operand) (s : State),
    (mk o).opcode.toNat = opcode ∧ (mk o).operand = o ∧ FaultsInOrder (mk o) s ∧
    (o.index.toNat ≤ 6 → fieldValid o → addressInRange o s →
      ∃ c : Cell,
        exec (mk o) s = .next ({ s with mem := s.mem.write (effectiveAddress o s).toNat c }.returned .ok) ∧
        c.sign = storedSign (s.mem.read (effectiveAddress o s).toNat) (source s) o.left.toNat ∧
        ∀ j < 5, c.byte j =
          storedByte (s.mem.read (effectiveAddress o s).toNat) (source s) o.left.toNat o.right.toNat j)

/-- A store, and the `HostRead` of the addressed cell right after it: the host gets the cell with `source s` stored into
its field. -/
def HostReadsStored (mk : Operand → Instr) (source : State → Cell) : Prop :=
  ∀ (o : Operand) (s : State) (rest : List Transaction), o.index.toNat ≤ 6 → fieldValid o → addressInRange o s →
    s.pending = .execute (encodeImage (mk o)) :: .hostRead (.mem (effectiveAddress o s).toNat) :: rest →
    ∃ (t : State) (c : Cell), Sys2Proof.core.run 2 s = .next t ∧ t.response = some (.value (.cell c.toImage)) ∧
      c.sign = storedSign (s.mem.read (effectiveAddress o s).toNat) (source s) o.left.toNat ∧
      (∀ j < 5, c.byte j =
        storedByte (s.mem.read (effectiveAddress o s).toNat) (source s) o.left.toNat o.right.toNat j) ∧
      t.pending = rest

/-- The cell an index register stores: its sign, three zero bytes and its two bytes (R81). -/
def widened (v : IndexCell) : Cell :=
  ⟨v.sign, 0#6, 0#6, 0#6, v.b0, v.b1⟩

/-- Two states have the same memory cells, read one by one. -/
def SameMemory (s t : State) : Prop :=
  ∀ a, t.mem.read a = s.mem.read a

/-- Two states have the same flags (R20, R21). -/
def SameFlags (s t : State) : Prop :=
  t.ov = s.ov ∧ t.ci = s.ci

/-- The instruction neither reads nor writes memory cell `a`: whatever is put there, the cell keeps it, the registers
and every other cell come out the same. -/
def LeavesCellAlone (i : Instr) (s t : State) (a : Nat) : Prop :=
  t.mem.read a = s.mem.read a ∧
  ∀ v : Cell, ∃ u, exec i { s with mem := s.mem.write a v } = .next u ∧ u.response = t.response ∧
    u.mem.read a = v ∧ u.a = t.a ∧ u.x = t.x ∧ (∀ r, u.readIndex r = t.readIndex r) ∧
    ∀ b ≠ a, u.mem.read b = t.mem.read b

/-- The number of an index register, as selectors and opcodes give it (R16). -/
def regNumber : IndexReg → Nat
  | .i1 => 1
  | .i2 => 2
  | .i3 => 3
  | .i4 => 4
  | .i5 => 5
  | .i6 => 6

/-- `LD1` to `LD6`: the load of each index register. -/
def loadIndex : IndexReg → Operand → Instr
  | .i1 => .ld1
  | .i2 => .ld2
  | .i3 => .ld3
  | .i4 => .ld4
  | .i5 => .ld5
  | .i6 => .ld6

/-- `LD1N` to `LD6N`: the negative load of each index register. -/
def loadIndexNegative : IndexReg → Operand → Instr
  | .i1 => .ld1n
  | .i2 => .ld2n
  | .i3 => .ld3n
  | .i4 => .ld4n
  | .i5 => .ld5n
  | .i6 => .ld6n

/-- `ST1` to `ST6`: the store of each index register. -/
def storeIndex : IndexReg → Operand → Instr
  | .i1 => .st1
  | .i2 => .st2
  | .i3 => .st3
  | .i4 => .st4
  | .i5 => .st5
  | .i6 => .st6

/-- What an instruction may write (10_state.md R17, column `w`). -/
inductive Destination where
  | a
  | x
  | index (r : IndexReg)
  | memory
deriving DecidableEq, Repr

/-- The one register or memory cell each opcode names (R17). -/
def destination : Instr → Destination
  | .lda _ => .a
  | .ld1 _ => .index .i1
  | .ld2 _ => .index .i2
  | .ld3 _ => .index .i3
  | .ld4 _ => .index .i4
  | .ld5 _ => .index .i5
  | .ld6 _ => .index .i6
  | .ldx _ => .x
  | .ldan _ => .a
  | .ld1n _ => .index .i1
  | .ld2n _ => .index .i2
  | .ld3n _ => .index .i3
  | .ld4n _ => .index .i4
  | .ld5n _ => .index .i5
  | .ld6n _ => .index .i6
  | .ldxn _ => .x
  | .sta _ => .memory
  | .st1 _ => .memory
  | .st2 _ => .memory
  | .st3 _ => .memory
  | .st4 _ => .memory
  | .st5 _ => .memory
  | .st6 _ => .memory
  | .stx _ => .memory

/-- Apply a change to the state an outcome answers. -/
def mapNext (f : State → State) : Host.Outcome State Fault Refusal → Host.Outcome State Fault Refusal
  | .next s => .next (f s)
  | .fault r => .fault r
  | .refused r => .refused r

end Sys2Proof.Machine
end

