-- ==== Sys2Proof/Certificates/Slice0/Obligations.lean ====
section
/-! DEFINITION. The statements about the model, each from a numbered rule of the spec or from a section of it. A rule
marked [decision: D<n>] is the spec's own choice and no statement of its source; the docstrings say so. -/

open Sys2Proof Sys2Proof.Machine

/-! ## Encoding -/

/-- Words written out from 30_encoding.md R47, R49, R54 (and given in 95_test_vectors.md V-EN-9, V-EN-8, V-EN-10 and the
examples of R97, R107, R108, R112, R116) decode to the instructions they stand for, one or more of every family. -/
def Obligations.WrittenWordsDecode : Prop :=
  decodeImage 0x408022C8#31 = .ok (.lda ⟨.neg, 0#6, 32#6, 2#6, 1#3, 3#3⟩) ∧
  decodeImage 0x408022CA#31 = .ok (.ld2 ⟨.neg, 0#6, 32#6, 2#6, 1#3, 3#3⟩) ∧
  decodeImage 0x1F18614E#31 = .ok (.ld6 ⟨.pos, 31#6, 6#6, 6#6, 0#3, 5#3⟩) ∧
  decodeImage 0x1F541156#31 = .ok (.ld6n ⟨.pos, 31#6, 21#6, 1#6, 0#3, 5#3⟩) ∧
  decodeImage 0x1F400357#31 = .ok (.ldxn ⟨.pos, 31#6, 16#6, 0#6, 1#3, 5#3⟩) ∧
  decodeImage 0x12C004D8#31 = .ok (.sta ⟨.pos, 18#6, 48#6, 0#6, 2#3, 3#3⟩) ∧
  decodeImage 0x1F400159#31 = .ok (.st1 ⟨.pos, 31#6, 16#6, 0#6, 0#3, 5#3⟩) ∧
  decodeImage 0x1F400B5D#31 = .ok (.st5 ⟨.pos, 31#6, 16#6, 0#6, 5#3, 5#3⟩)

/-- Decoding the image an instruction encodes to gives the instruction back, every operand at every value: no bit of
the encoding is dropped (30_encoding.md sections 1 to 3). All 24 instructions, legal operands or not. -/
def Obligations.DecodeOfEncodeIsTheInstruction : Prop :=
  ∀ i : Instr, decodeImage (encodeImage i) = .ok i

/-- Encoding the instruction an image decodes to gives the image back: no two images are one instruction
(30_encoding.md sections 1 to 3, R58 "no encodings that execute as a named other instruction"). -/
def Obligations.EncodeOfDecodeIsTheImage : Prop :=
  ∀ (w : CellImage) (i : Instr), decodeImage w = .ok i → encodeImage i = w

/-- R47: the sign is bit 30 (0 positive), byte 0 is bits 29..24 and so down to byte 4 in bits 5..0, each an unsigned
number; the map is a bijection on the 31-bit patterns (the packing is the spec's decision D1, D21). -/
def Obligations.CellImageIsPackedBytes : Prop :=
  (∀ c : Cell, c.toImage.toNat = (if c.sign = .neg then 1 else 0) * 2 ^ 30 + c.b0.toNat * 2 ^ 24 + c.b1.toNat * 2 ^ 18
    + c.b2.toNat * 2 ^ 12 + c.b3.toNat * 2 ^ 6 + c.b4.toNat) ∧
  (∀ c : Cell, Cell.ofImage c.toImage = c) ∧
  (∀ w : CellImage, (Cell.ofImage w).toImage = w)

/-- R48: the images of an index cell (13 bits, a bijection), of `OV` (1 bit) and of `CI` (2 bits, `11` unused and never
produced; a `HostWrite` of it is refused) (the packing is the spec's decision D1). -/
def Obligations.StateImagesArePacked : Prop :=
  (∀ v : IndexCell, v.toImage.toNat = (if v.sign = .neg then 1 else 0) * 2 ^ 12 + v.b0.toNat * 2 ^ 6 + v.b1.toNat) ∧
  (∀ v : IndexCell, IndexCell.ofImage v.toImage = v) ∧
  (∀ w : IndexImage, (IndexCell.ofImage w).toImage = w) ∧
  (Overflow.off.toImage = 0#1 ∧ Overflow.on.toImage = 1#1 ∧ ∀ v : Overflow, Overflow.ofImage v.toImage = v) ∧
  (Comparison.less.toImage = 0b00#2 ∧ Comparison.equal.toImage = 0b01#2 ∧ Comparison.greater.toImage = 0b10#2) ∧
  (∀ v : Comparison, v.toImage ≠ 0b11#2 ∧ Comparison.ofImage v.toImage = some v) ∧
  (∀ (s : State) (rest : List Transaction), s.pending = .hostWrite .ci (.ci 0b11#2) :: rest →
    step s = .refused .unusedComparisonImage)

/-- The instruction fields on the bit image (30_encoding.md section 1, R49, which the spec derives from R46 and R47):
sign in bit 30, address magnitude in bits 29..18, selector in 17..12, left in 11..9, right in 8..6, opcode in 5..0. -/
def Obligations.InstructionFieldsAreImageSlices : Prop :=
  ∀ (w : CellImage) (i : Instr), decodeImage w = .ok i →
    i.operand.sign = (if w.toNat / 2 ^ 30 = 1 then .neg else .pos) ∧
    64 * i.operand.b0.toNat + i.operand.b1.toNat = w.toNat / 2 ^ 18 % 4096 ∧
    i.operand.index.toNat = w.toNat / 2 ^ 12 % 64 ∧
    i.operand.left.toNat = w.toNat / 2 ^ 9 % 8 ∧
    i.operand.right.toNat = w.toNat / 2 ^ 6 % 8 ∧
    i.opcode.toNat = w.toNat % 64

/-- R55, R122: opcodes 0..7 and 32..63 are unimplemented; `Execute` of such an image, whatever its other fields,
returns `UnimplementedOpcode` and changes nothing; no other opcode is rejected (the fault is the spec's decision
D5). -/
def Obligations.UnimplementedOpcodesOnlyFault : Prop :=
  ∀ w : CellImage,
    ((w.toNat % 64 < 8 ∨ 31 < w.toNat % 64) ↔ ∃ r, decodeImage w = .error r) ∧
    ∀ (s : State) (rest : List Transaction), s.pending = .execute w :: rest →
      (w.toNat % 64 < 8 ∨ 31 < w.toNat % 64) →
      step s = .next { s with pending := rest, response := some (.status .unimplementedOpcode) }

/-- The legal instruction cells number 24 * 2 * 4096 * 7 * 21 (30_encoding.md section 4, R58, which the spec derives). -/
def Obligations.LegalInstructionCount : Prop :=
  Nat.card { w : CellImage // ∃ i, decodeImage w = .ok i ∧ i.wellFormed = true } = 28901376

/-- R124: with an implemented opcode and a selector 0..6, `Execute` returns `InvalidFieldSpec` exactly when the field
byte is none of the 21 valid ones listed in R52, for loads and stores alike. -/
def Obligations.TwentyOneFieldBytesAreValid : Prop :=
  ∀ (w : CellImage) (s : State) (rest : List Transaction), s.pending = .execute w :: rest →
    8 ≤ w.toNat % 64 → w.toNat % 64 ≤ 31 → w.toNat / 2 ^ 12 % 64 ≤ 6 →
    ∃ t, step s = .next t ∧
      (t.response = some (.status .invalidFieldSpec) ↔
        w.toNat / 2 ^ 6 % 64 ∉ [0, 1, 2, 3, 4, 5, 9, 10, 11, 12, 13, 18, 19, 20, 21, 27, 28, 29, 36, 37, 45])

/-! ## Steps and transactions -/

/-- An `Execute` whose image decodes to an instruction runs it: the step is `exec` of that instruction at the state
with the transaction taken from the pending list, and nothing is added around it: there is no program counter to move
(10_state.md sections 4 and 8). -/
def Obligations.StepRunsTheDecodedInstruction : Prop :=
  ∀ (s : State) (w : CellImage) (rest : List Transaction) (i : Instr),
    s.pending = .execute w :: rest → decodeImage w = .ok i → step s = exec i { s with pending := rest }

/-- Each of the 24 instructions, in every state and with every operand, answers a next state and returns a status
(10_state.md section 8, R26 "It always completes"). -/
def Obligations.EveryInstructionCompletes : Prop :=
  ∀ (i : Instr) (s : State), ∃ (t : State) (e : Status), exec i s = .next t ∧ t.response = some (.status e)

/-- A step is refused exactly when the transaction to perform is one the interface does not offer, and no step faults
(10_state.md section 8, R27 and R28). The model's: that a value of another type is refused (log 10, DEDUCED: R28 says
only that the value must be of the location's type), and that no step faults, because a fault of the spec is a next state
and `Fault` has no constructor (log 2, DEDUCED from 60_exceptions.md section 4, R127 and R129). -/
def Obligations.OnlyUnofferedTransactionsAreRefused : Prop :=
  ∀ s : State,
    ((∃ r, step s = .refused r) ↔ ∃ t rest, s.pending = t :: rest ∧ t.offered = false) ∧
    (∀ r, step s ≠ .fault r)

/-- When the host's transactions are all offered, a run of any length goes through, performing one transaction a step
(10_state.md section 8, 70_reset_and_hazards.md sections 3 and 4 "unconditionally completes"). The model's: beyond the
pending transactions the run goes on by idle steps (log 4, DESIGN CHOICE). -/
def Obligations.OfferedRunsAlwaysComplete : Prop :=
  ∀ (n : Nat) (s : State), (∀ t ∈ s.pending, t.offered = true) →
    ∃ t, Sys2Proof.core.run n s = .next t ∧ t.pending = s.pending.drop n

/-- With no transaction pending the block holds its state and returns nothing (60_exceptions.md section 8, R137;
70_reset_and_hazards.md section 1, R141). That a step then happens at all is the model's (log 4). -/
def Obligations.IdleBlockHoldsItsState : Prop :=
  ∀ s : State, s.pending = [] → step s = .next { s with response := none }

/-- R25, R140: `Reset`, from any state, puts every register and flag to its reset value, leaves memory holding
`MEM_INIT`, the free value of its epoch, and returns nothing (the values are the spec's decision D11 and D12; that
each Reset has a `MEM_INIT` of its own, the next epoch's, is the model's, log 5). -/
def Obligations.ResetTransactionRestoresResetValues : Prop :=
  ∀ (s : State) (rest : List Transaction), s.pending = .reset :: rest →
    ∃ t, step s = .next t ∧
      t.a = ⟨.pos, 0#6, 0#6, 0#6, 0#6, 0#6⟩ ∧ t.x = ⟨.pos, 0#6, 0#6, 0#6, 0#6, 0#6⟩ ∧
      (∀ r, t.readIndex r = ⟨.pos, 0#6, 0#6⟩) ∧ t.ov = .off ∧ t.ci = .equal ∧
      (∀ a, t.mem.read a = Config.memInit t.mem.epoch a) ∧ t.mem.epoch = s.mem.epoch + 1 ∧ t.pending = rest ∧ t.response = none

/-- R29: the state after reset; every memory cell holds its `MEM_INIT`, a free value (the values are the spec's
decisions D11 and D12). -/
def Obligations.ResetStateHoldsResetValues : Prop :=
  State.reset.a = ⟨.pos, 0#6, 0#6, 0#6, 0#6, 0#6⟩ ∧ State.reset.x = ⟨.pos, 0#6, 0#6, 0#6, 0#6, 0#6⟩ ∧
  (∀ r, State.reset.readIndex r = ⟨.pos, 0#6, 0#6⟩) ∧ State.reset.ov = .off ∧ State.reset.ci = .equal ∧
  (∀ a, State.reset.mem.read a = Config.memInit State.reset.mem.epoch a)

/-- R27: `HostRead` returns the image of the location and changes nothing; a memory location outside 0..3999 is
refused (decision D20). -/
def Obligations.HostReadReturnsTheLocation : Prop :=
  ∀ (s : State) (rest : List Transaction) (loc : Location), s.pending = .hostRead loc :: rest →
    (loc = .a → step s = .next { s with pending := rest, response := some (.value (.cell s.a.toImage)) }) ∧
    (loc = .x → step s = .next { s with pending := rest, response := some (.value (.cell s.x.toImage)) }) ∧
    (∀ r, loc = .index r →
      step s = .next { s with pending := rest, response := some (.value (.index (s.readIndex r).toImage)) }) ∧
    (loc = .ov → step s = .next { s with pending := rest, response := some (.value (.ov s.ov.toImage)) }) ∧
    (loc = .ci → step s = .next { s with pending := rest, response := some (.value (.ci s.ci.toImage)) }) ∧
    (∀ addr, loc = .mem addr → addr ≤ 3999 →
      step s = .next { s with pending := rest, response := some (.value (.cell (s.mem.read addr).toImage)) }) ∧
    (∀ addr, loc = .mem addr → 3999 < addr → step s = .refused (.noSuchLocation addr))

/-- R28: `HostWrite` of an offered value replaces the whole value of its location, so that it reads back, changes no
other location and returns nothing; what is not offered is refused (decision D20). The model's: that a value of another
type is refused (log 10, DEDUCED: R28 says only that it must be of the type), and that nothing is returned (log 3, DESIGN
CHOICE). -/
def Obligations.HostWriteReplacesOneLocation : Prop :=
  ∀ (s : State) (rest : List Transaction) (loc : Location) (v : PortValue), s.pending = .hostWrite loc v :: rest →
    ((Transaction.hostWrite loc v).offered = true →
      ∃ t, step s = .next t ∧ readLocation t loc = .ok v ∧
        (∀ other, other ≠ loc → readLocation t other = readLocation s other) ∧
        t.pending = rest ∧ t.response = none) ∧
    ((Transaction.hostWrite loc v).offered = false → ∃ r, step s = .refused r)

/-! ## Status and faults -/

/-- R121, R126: the status an `Execute` returns is that of the first check that fails, opcode, selector, field,
address, each read off the image and the selected index register in plain arithmetic, with the code R121 gives it; 0
when none fails (order and codes are the spec's decisions D8 and D9). -/
def Obligations.StatusIsTheFirstFailingCheck : Prop :=
  (Status.ok.code = 0#3 ∧ Status.unimplementedOpcode.code = 1#3 ∧ Status.invalidIndexSelector.code = 2#3 ∧
    Status.invalidFieldSpec.code = 3#3 ∧ Status.addressOutOfRange.code = 4#3) ∧
  ∀ (s : State) (w : CellImage) (rest : List Transaction), s.pending = .execute w :: rest →
    ∃ (t : State) (e : Status), step s = .next t ∧ t.response = some (.status e) ∧
      e.code.toNat = imageStatusCode w s

/-- R120, R127: a fault completes the `Execute` with a non-zero status, one of four, and leaves every register, flag
and memory cell exactly as it was; it is not sticky: the next transaction does what it would have done without the
faulting `Execute` (delivery as a status is the spec's decision D10). -/
def Obligations.FaultLeavesTheStateUnchanged : Prop :=
  ∀ (s t : State) (w : CellImage) (rest : List Transaction) (e : Status), s.pending = .execute w :: rest →
    step s = .next t → t.response = some (.status e) → e ≠ .ok →
    1 ≤ e.code.toNat ∧ e.code.toNat ≤ 4 ∧
    t = { s with pending := rest, response := some (.status e) } ∧
    step t = step { s with pending := rest }

/-- Reissuing a faulting instruction at once faults again, the same way (60_exceptions.md section 4, R128). -/
def Obligations.RetriedFaultFaultsAgain : Prop :=
  ∀ (s t : State) (w : CellImage) (rest : List Transaction) (e : Status),
    s.pending = .execute w :: .execute w :: rest → step s = .next t → t.response = some (.status e) → e ≠ .ok →
    ∃ u, step t = .next u ∧ u.response = some (.status e)

/-! ## Instructions -/

/-- R91, R98 (`LDA`, `LDX`): opcode, the four faults in order with nothing changed, and otherwise the whole register
takes the field of the addressed cell, right-justified over zeros, with the cell's sign if the field includes it and
positive if not; nothing else changes. -/
def Obligations.LoadCellRegistersFollowTheirRules : Prop :=
  LoadsCell .lda 8 id (fun s t => { s with a := t }) ∧
  LoadsCell .ldx 15 id (fun s t => { s with x := t })

/-- R92 to R97 (`LD1` to `LD6`): as the cell loads, the register taking the two least significant bytes of the field;
the others are dropped (decision D14). -/
def Obligations.LoadIndexRegistersFollowTheirRules : Prop :=
  LoadsIndex .ld1 9 id (fun s t => { s with i1 := t }) ∧
  LoadsIndex .ld2 10 id (fun s t => { s with i2 := t }) ∧
  LoadsIndex .ld3 11 id (fun s t => { s with i3 := t }) ∧
  LoadsIndex .ld4 12 id (fun s t => { s with i4 := t }) ∧
  LoadsIndex .ld5 13 id (fun s t => { s with i5 := t }) ∧
  LoadsIndex .ld6 14 id (fun s t => { s with i6 := t })

/-- R101, R108 (`LDAN`, `LDXN`): as `LDA` and `LDX`, with the field's sign flipped, a zero's too. -/
def Obligations.LoadNegativeCellRegistersFollowTheirRules : Prop :=
  LoadsCell .ldan 16 (fun g => if g = .pos then .neg else .pos) (fun s t => { s with a := t }) ∧
  LoadsCell .ldxn 23 (fun g => if g = .pos then .neg else .pos) (fun s t => { s with x := t })

/-- R102 to R107 (`LD1N` to `LD6N`): as `LD1` to `LD6`, with the field's sign flipped, a zero's too. -/
def Obligations.LoadNegativeIndexRegistersFollowTheirRules : Prop :=
  LoadsIndex .ld1n 17 (fun g => if g = .pos then .neg else .pos) (fun s t => { s with i1 := t }) ∧
  LoadsIndex .ld2n 18 (fun g => if g = .pos then .neg else .pos) (fun s t => { s with i2 := t }) ∧
  LoadsIndex .ld3n 19 (fun g => if g = .pos then .neg else .pos) (fun s t => { s with i3 := t }) ∧
  LoadsIndex .ld4n 20 (fun g => if g = .pos then .neg else .pos) (fun s t => { s with i4 := t }) ∧
  LoadsIndex .ld5n 21 (fun g => if g = .pos then .neg else .pos) (fun s t => { s with i5 := t }) ∧
  LoadsIndex .ld6n 22 (fun g => if g = .pos then .neg else .pos) (fun s t => { s with i6 := t })

/-- R111, R118 (`STA`, `STX`): opcode, the four faults in order with nothing changed, and otherwise the field of the
addressed cell takes the low bytes of the register, and its sign if the field includes it; nothing else changes. -/
def Obligations.StoreCellRegistersFollowTheirRules : Prop :=
  StoresField .sta 24 State.a ∧ StoresField .stx 31 State.x

/-- R112 to R117 (`ST1` to `ST6`): as `STA`, the register widened by three zero bytes on the left (decision D13). -/
def Obligations.StoreIndexRegistersFollowTheirRules : Prop :=
  StoresField .st1 25 (fun s => widened s.i1) ∧
  StoresField .st2 26 (fun s => widened s.i2) ∧
  StoresField .st3 27 (fun s => widened s.i3) ∧
  StoresField .st4 28 (fun s => widened s.i4) ∧
  StoresField .st5 29 (fun s => widened s.i5) ∧
  StoresField .st6 30 (fun s => widened s.i6)

/-- R88, the frame of all 24 instructions: every register but the one the opcode names, both flags, and every memory
cell but, for a store, the one at the effective address, read after the instruction as before it; after a fault
everything does. -/
def Obligations.EachOpcodeTouchesOnlyWhatItNames : Prop :=
  ∀ (i : Instr) (s t : State), exec i s = .next t →
    (destination i ≠ .a → t.a = s.a) ∧
    (destination i ≠ .x → t.x = s.x) ∧
    (∀ r, destination i ≠ .index r → t.readIndex r = s.readIndex r) ∧
    SameFlags s t ∧
    (destination i ≠ .memory → SameMemory s t) ∧
    (∀ a : Nat, (a : Int) ≠ effectiveAddress i.operand s → t.mem.read a = s.mem.read a) ∧
    (t.response ≠ some (.status .ok) →
      t.a = s.a ∧ t.x = s.x ∧ (∀ r, t.readIndex r = s.readIndex r) ∧ SameMemory s t) ∧
    t.pending = s.pending

/-- R20, R21: the flags are storage only: they change in a step only by `Reset` or by `HostWrite` of that flag, and no
instruction's outcome depends on them. -/
def Obligations.FlagsAreStorageOnly : Prop :=
  (∀ s t : State, step s = .next t →
    (t.ov ≠ s.ov → ∃ rest, s.pending = .reset :: rest ∨ ∃ v, s.pending = .hostWrite .ov v :: rest) ∧
    (t.ci ≠ s.ci → ∃ rest, s.pending = .reset :: rest ∨ ∃ v, s.pending = .hostWrite .ci v :: rest)) ∧
  (∀ (i : Instr) (s : State) (v : Overflow) (c : Comparison),
    exec i { s with ov := v, ci := c } = mapNext (fun t => { t with ov := v, ci := c }) (exec i s))

/-- R14: the accumulator is written by `LDA` and `LDAN` only, which replace it whole, and by the host; it is read by
`STA` only, and no address depends on it. -/
def Obligations.AccumulatorAccess : Prop :=
  (∀ s t : State, step s = .next t → t.a ≠ s.a →
    ∃ rest, s.pending = .reset :: rest ∨ (∃ v, s.pending = .hostWrite .a v :: rest) ∨
      ∃ w, s.pending = .execute w :: rest ∧ (w.toNat % 64 = 8 ∨ w.toNat % 64 = 16)) ∧
  (∀ (i : Instr) (s : State) (v : Cell), i.opcode ≠ 8#6 → i.opcode ≠ 16#6 → i.opcode ≠ 24#6 →
    exec i { s with a := v } = mapNext (fun t => { t with a := v }) (exec i s)) ∧
  (∀ (i : Instr) (s t : State) (v : Cell), i.opcode = 8#6 ∨ i.opcode = 16#6 → exec i s = .next t →
    t.response = some (.status .ok) → exec i { s with a := v } = .next t) ∧
  (∀ (o : Operand) (s : State) (v : Cell), effectiveAddress o { s with a := v } = effectiveAddress o s)

/-- R15: the extension is written by `LDX` and `LDXN` only, which replace it whole, and by the host; it is read by
`STX` only; it is independent of the accumulator, which the three neither read nor write. -/
def Obligations.ExtensionAccess : Prop :=
  (∀ s t : State, step s = .next t → t.x ≠ s.x →
    ∃ rest, s.pending = .reset :: rest ∨ (∃ v, s.pending = .hostWrite .x v :: rest) ∨
      ∃ w, s.pending = .execute w :: rest ∧ (w.toNat % 64 = 15 ∨ w.toNat % 64 = 23)) ∧
  (∀ (i : Instr) (s : State) (v : Cell), i.opcode ≠ 15#6 → i.opcode ≠ 23#6 → i.opcode ≠ 31#6 →
    exec i { s with x := v } = mapNext (fun t => { t with x := v }) (exec i s)) ∧
  (∀ (i : Instr) (s t : State) (v : Cell), i.opcode = 15#6 ∨ i.opcode = 23#6 → exec i s = .next t →
    t.response = some (.status .ok) → exec i { s with x := v } = .next t) ∧
  (∀ (i : Instr) (s : State) (v : Cell), i.opcode = 15#6 ∨ i.opcode = 23#6 ∨ i.opcode = 31#6 →
    exec i { s with a := v } = mapNext (fun t => { t with a := v }) (exec i s))

/-- R16: index register `k` is written by opcodes `8+k` and `16+k` only, which replace it whole, and by the host; it is
read by opcode `24+k` and by every instruction whose selector is `k`, and by nothing else. -/
def Obligations.IndexRegisterAccess : Prop :=
  ∀ r : IndexReg,
    (∀ s t : State, step s = .next t → t.readIndex r ≠ s.readIndex r →
      ∃ rest, s.pending = .reset :: rest ∨ (∃ v, s.pending = .hostWrite (.index r) v :: rest) ∨
        ∃ w, s.pending = .execute w :: rest ∧ (w.toNat % 64 = 8 + regNumber r ∨ w.toNat % 64 = 16 + regNumber r)) ∧
    (∀ (i : Instr) (s : State) (v : IndexCell), i.operand.index.toNat ≠ regNumber r →
      i.opcode.toNat ≠ 8 + regNumber r → i.opcode.toNat ≠ 16 + regNumber r → i.opcode.toNat ≠ 24 + regNumber r →
      exec i (s.setIndex r v) = mapNext (fun t => t.setIndex r v) (exec i s)) ∧
    (∀ (i : Instr) (s t : State) (v : IndexCell), i.operand.index.toNat ≠ regNumber r →
      i.opcode.toNat = 8 + regNumber r ∨ i.opcode.toNat = 16 + regNumber r → exec i s = .next t →
      t.response = some (.status .ok) → exec i (s.setIndex r v) = .next t)

/-- A memory cell changes in a step only by `Reset`, by `HostWrite` of that cell, or by one of the eight stores at that
effective address that returns `OK` (10_state.md section 7, R23). -/
def Obligations.MemoryChangesOnlyByStoreOrHost : Prop :=
  ∀ (s t : State) (a : Nat), step s = .next t → t.mem.read a ≠ s.mem.read a →
    ∃ rest, s.pending = .reset :: rest ∨ (∃ v, s.pending = .hostWrite (.mem a) v :: rest) ∨
      ∃ w i, s.pending = .execute w :: rest ∧ decodeImage w = .ok i ∧ 24 ≤ w.toNat % 64 ∧ w.toNat % 64 ≤ 31 ∧
        effectiveAddress i.operand s = a ∧ t.response = some (.status .ok)

/-! ## Memory -/

/-- Every step keeps the memory in its canonical form, with only addresses 0..3999 listed (20_memory.md section 5; the
form is the model's, log 6). -/
def Obligations.StepKeepsMemoryCanonical : Prop :=
  ∀ s t : State, s.Inv → step s = .next t → t.Inv

/-- The memory of the reset state has the canonical form (the form is the model's, log 6). -/
def Obligations.ResetMemoryIsCanonical : Prop :=
  State.reset.Inv

/-- A read returns the latest value written to its address, or `MEM_INIT` if there was none since Reset; a write
changes no other address, and repeating it changes nothing (20_memory.md sections 4 and 7, R38 and R42). The model's: that
it holds beyond 3999 too, where the memory has no cell (log 16), and the epoch (log 5). -/
def Obligations.ReadReturnsTheLatestWrite : Prop :=
  (∀ (m : Memory) (a b : Nat) (v : Cell), (m.write a v).read b = if b = a then v else m.read b) ∧
  (∀ (m : Memory) (a : Nat), (∀ p ∈ m.cells, p.1 ≠ a) → m.read a = Config.memInit m.epoch a) ∧
  (∀ (m : Memory) (a : Nat) (v : Cell), (m.write a v).write a v = m.write a v)

/-- Two canonical memories of the same Reset that hold the same written values are the same data (the representation
is the model's, log 6; 20_memory.md section 1). -/
def Obligations.EqualMemoriesAreEqualData : Prop :=
  ∀ m n : Memory, m.wf → n.wf → m.epoch = n.epoch → (∀ a, m.lookup a = n.lookup a) → m = n

/-! ## Datapath functions -/

/-- R73, R74: `fieldRange` and `getField`, for every valid field: `n` bytes, right-justified over zeros, the sign only
if `left = 0`; `(0:5)` gives the cell and `(0:0)` its sign (byte movement is the spec's decision D15). -/
def Obligations.GetFieldSelectsRightJustified : Prop :=
  ∀ (c : Cell) (left right : Nat), left ≤ right → right ≤ 5 →
    ((fieldRange left right).signIn = true ↔ left = 0) ∧
    (fieldRange left right).lo = max left 1 ∧
    (fieldRange left right).n + max left 1 = right + 1 ∧
    ((fieldRange left right).n = 0 ↔ left = 0 ∧ right = 0) ∧
    (getField c left right).sign = (if left = 0 then c.sign else .pos) ∧
    (∀ j, j + (fieldRange left right).n < 5 → (getField c left right).byte j = 0#6) ∧
    (∀ k < (fieldRange left right).n,
      (getField c left right).byte (5 - (fieldRange left right).n + k) = c.byte (max left 1 - 1 + k)) ∧
    getField c 0 5 = c ∧ getField c 0 0 = ⟨c.sign, 0#6, 0#6, 0#6, 0#6, 0#6⟩ ∧
    getField ⟨.neg, 10#6, 11#6, 0#6, 11#6, 22#6⟩ 1 3 = ⟨.pos, 0#6, 0#6, 10#6, 11#6, 0#6⟩

/-- R75: `setField`, for every valid field: the `n` low bytes of `v` go into the field, every other byte stays, the
sign is written only if `left = 0`; `(0:5)` gives `v` and `(0:0)` the cell with the sign of `v` (decision D15). -/
def Obligations.SetFieldReplacesOnlyTheField : Prop :=
  ∀ (c v : Cell) (left right : Nat), left ≤ right → right ≤ 5 →
    (setField c left right v).sign = (if left = 0 then v.sign else c.sign) ∧
    (∀ k, k + max left 1 ≤ right →
      (setField c left right v).byte (max left 1 - 1 + k) = v.byte (5 - (right + 1 - max left 1) + k)) ∧
    (∀ j < 5, j + 1 < max left 1 ∨ right ≤ j → (setField c left right v).byte j = c.byte j) ∧
    setField c 0 5 v = v ∧ setField c 0 0 v = { c with sign := v.sign } ∧
    setField ⟨.neg, 20#6, 21#6, 22#6, 23#6, 24#6⟩ 2 3 ⟨.pos, 1#6, 2#6, 3#6, 4#6, 5#6⟩ = ⟨.neg, 20#6, 4#6, 5#6, 23#6, 24#6⟩

/-- The laws of the field unit (40_datapath_functions.md section 2, R76, which the spec derives): writing a cell's own
field back changes nothing, and reading a field just written gives the low bytes written, right-justified. -/
def Obligations.FieldUnitLaws : Prop :=
  ∀ (c v : Cell) (left right : Nat), left ≤ right → right ≤ 5 →
    setField c left right (getField c left right) = c ∧
    (getField (setField c left right v) left right).sign = (if left = 0 then v.sign else .pos) ∧
    (∀ j < 5, (getField (setField c left right v) left right).byte j =
      if j < 5 - (right + 1 - max left 1) then 0#6 else v.byte j)

/-- R78: `decode` is the base-64 positional value, most significant byte first, of one byte or more, and `decodeSigned`
negates it for a negative sign; two bytes give -4095..4095 and both zeros give 0; the source's examples. -/
def Obligations.DecodeIsPositional : Prop :=
  (∀ b : Byte, decodeBytes [b] = b.toNat) ∧
  (∀ (b c : Byte) (bs : List Byte),
    decodeBytes (b :: c :: bs) = b.toNat * 64 ^ (bs.length + 1) + decodeBytes (c :: bs)) ∧
  (∀ bs : List Byte, bs ≠ [] → decodeSigned .pos bs = decodeBytes bs ∧ decodeSigned .neg bs = -(decodeBytes bs : Int)) ∧
  (∀ b0 b1 : Byte, decodeBytes [b0, b1] ≤ 4095) ∧
  (∀ (g : Sign) (b0 b1 : Byte), -4095 ≤ decodeSigned g [b0, b1] ∧ decodeSigned g [b0, b1] ≤ 4095) ∧
  (∀ g : Sign, decodeSigned g [0#6, 0#6] = 0) ∧
  (decodeBytes [0#6] = 0 ∧ decodeBytes [5#6] = 5 ∧ decodeBytes [1#6, 0#6] = 64 ∧ decodeBytes [1#6, 1#6] = 65 ∧
    decodeBytes [2#6, 0#6] = 128 ∧ decodeBytes [5#6, 5#6] = 325 ∧ decodeBytes [1#6, 0#6, 0#6] = 4096 ∧
    decodeBytes [1#6, 0#6, 1#6] = 4097 ∧ decodeSigned .neg [1#6] = -1 ∧ decodeSigned .neg [0#6, 5#6] = -5)

/-- R79: `encodeSigned` in -4095..4095 gives the sign and the two base-64 digits of the magnitude, and is refused
outside (decision D24). -/
def Obligations.EncodeSignedGivesSignAndDigits : Prop :=
  (∀ v : Int, -4095 ≤ v → v ≤ 4095 → ∃ x, encodeSigned v = some x ∧
    (x.sign = .neg ↔ v < 0) ∧ x.b0.toNat = v.natAbs / 64 ∧ x.b1.toNat = v.natAbs % 64) ∧
  (∀ v : Int, v < -4095 ∨ 4095 < v → encodeSigned v = none)

/-- R80: the round trips of the address codec, with the signed-zero asymmetry and the one-byte case. -/
def Obligations.AddressCodecRoundTrips : Prop :=
  (∀ v : Int, -4095 ≤ v → v ≤ 4095 → ∃ x, encodeSigned v = some x ∧ decodeSigned x.sign [x.b0, x.b1] = v) ∧
  (∀ (g : Sign) (b0 b1 : Byte), encodeSigned (decodeSigned g [b0, b1]) =
    some (if g = .neg ∧ b0 = 0#6 ∧ b1 = 0#6 then ⟨.pos, 0#6, 0#6⟩ else ⟨g, b0, b1⟩)) ∧
  (∀ (g : Sign) (b : Byte), encodeSigned (decodeSigned g [b]) =
    some (if g = .neg ∧ b = 0#6 then ⟨.pos, 0#6, 0#6⟩ else ⟨g, 0#6, b⟩))

/-- R81, R82: the index conversions: widening puts the two bytes lowest over three zero bytes and copies the sign,
narrowing keeps the sign and the two lowest bytes and drops the rest, and when each undoes the other (decisions D13
and D14). -/
def Obligations.IndexConversionsKeepTheTwoLowBytes : Prop :=
  (∀ v : IndexCell, (indexToCell v).sign = v.sign ∧ (∀ j < 3, (indexToCell v).byte j = 0#6) ∧
    (indexToCell v).byte 3 = v.b0 ∧ (indexToCell v).byte 4 = v.b1) ∧
  (∀ c : Cell, cellToIndex c = ⟨c.sign, c.b3, c.b4⟩) ∧
  (∀ v : IndexCell, cellToIndex (indexToCell v) = v) ∧
  (∀ c : Cell, indexToCell (cellToIndex c) = c ↔ c.b0 = 0#6 ∧ c.b1 = 0#6 ∧ c.b2 = 0#6)

/-- R83, R84, R85: the effective address is the exact sum of the signed address and, for a selector 0..6, the selected
index register's signed value (0 for selector 0), in -8190..8190, without a wrap. In 0..3999 it is the one memory address
the instruction uses; outside, the instruction raises `AddressOutOfRange` and changes nothing (decision D4). The spec's
fixture. -/
def Obligations.EffectiveAddressIsTheExactSum : Prop :=
  (∀ (o : Operand) (s : State),
    addressOf o = signedPair o.sign o.b0 o.b1 ∧ -4095 ≤ addressOf o ∧ addressOf o ≤ 4095 ∧
    (o.index.toNat ≤ 6 →
      indexDelta s o.index = displacement s o.index.toNat ∧
      -4095 ≤ indexDelta s o.index ∧ indexDelta s o.index ≤ 4095 ∧
      effectiveAddress o s = signedPair o.sign o.b0 o.b1 + displacement s o.index.toNat ∧
      -8190 ≤ effectiveAddress o s ∧ effectiveAddress o s ≤ 8190)) ∧
  (∀ (i : Instr) (s : State), i.operand.index.toNat ≤ 6 → fieldValid i.operand →
    (¬ addressInRange i.operand s → exec i s = .next (s.returned .addressOutOfRange)) ∧
    (addressInRange i.operand s →
      ∃ t, exec i s = .next t ∧ t.response = some (.status .ok) ∧
        ∀ a : Nat, (a : Int) ≠ effectiveAddress i.operand s → LeavesCellAlone i s t a)) ∧
  (∀ s : State, s.i2 = ⟨.pos, 0#6, 63#6⟩ →
    addressOf ⟨.neg, 0#6, 32#6, 2#6, 1#3, 3#3⟩ = -32 ∧ indexDelta s 2#6 = 63 ∧
    effectiveAddress ⟨.neg, 0#6, 32#6, 2#6, 1#3, 3#3⟩ s = 31)

/-! ## Sequences -/

/-- A load through the field a store just used returns the stored low bytes, right-justified (20_memory.md section 7,
70_reset_and_hazards.md section 3, R143): `STA` then `LDX` with the same operand. -/
def Obligations.LoadAfterStoreReturnsTheStoredField : Prop :=
  ∀ (o : Operand) (s : State), o.index.toNat ≤ 6 → fieldValid o → addressInRange o s →
    ∃ t u, exec (.sta o) s = .next t ∧ exec (.ldx o) t = .next u ∧ u.response = some (.status .ok) ∧
      u.x.sign = (if o.left.toNat = 0 then s.a.sign else .pos) ∧
      (∀ j < 5, u.x.byte j = if j < 5 - (o.right.toNat + 1 - max o.left.toNat 1) then 0#6 else s.a.byte j) ∧
      u.a = s.a

/-- R146: when the selector names the register an index load writes, the address uses the old value, and when it names
the register an index store reads, that value is both displacement and data. `LD1`..`LD6`, `LD1N`..`LD6N`,
`ST1`..`ST6`. -/
def Obligations.IndexedAccessUsesTheOldIndex : Prop :=
  ∀ (r : IndexReg) (o : Operand) (s : State), o.index.toNat = regNumber r → fieldValid o →
    ∀ e : Int, e = signedPair o.sign o.b0 o.b1 +
        signedPair (s.readIndex r).sign (s.readIndex r).b0 (s.readIndex r).b1 → 0 ≤ e → e ≤ 3999 →
      (∃ v, exec (loadIndex r o) s = .next ((s.setIndex r v).returned .ok) ∧
        v.sign = fieldSign (s.mem.read e.toNat) o.left.toNat ∧
        v.b0 = fieldByte (s.mem.read e.toNat) o.left.toNat o.right.toNat 3 ∧
        v.b1 = fieldByte (s.mem.read e.toNat) o.left.toNat o.right.toNat 4) ∧
      (∃ v, exec (loadIndexNegative r o) s = .next ((s.setIndex r v).returned .ok) ∧
        v.sign ≠ fieldSign (s.mem.read e.toNat) o.left.toNat ∧
        v.b0 = fieldByte (s.mem.read e.toNat) o.left.toNat o.right.toNat 3 ∧
        v.b1 = fieldByte (s.mem.read e.toNat) o.left.toNat o.right.toNat 4) ∧
      (∃ c, exec (storeIndex r o) s = .next ({ s with mem := s.mem.write e.toNat c }.returned .ok) ∧
        c.sign = storedSign (s.mem.read e.toNat) (widened (s.readIndex r)) o.left.toNat ∧
        ∀ j < 5, c.byte j =
          storedByte (s.mem.read e.toNat) (widened (s.readIndex r)) o.left.toNat o.right.toNat j)

/-- `HostRead` is ordered with `Execute`: the host reads back the cell a store just left, with no fence, for each of the
eight stores (20_memory.md section 7, R42 and R44). -/
def Obligations.HostReadSeesTheStore : Prop :=
  HostReadsStored .sta State.a ∧ HostReadsStored .stx State.x ∧
  ∀ r : IndexReg, HostReadsStored (storeIndex r) (fun s => widened (s.readIndex r))

/-! ## Text -/

/-- R66: every legal instruction cell has a text form, and parsing it gives the identical cell; the source's worked
example, both ways. The codec is outside the block (R5); `-0` keeps its sign by decision D18. -/
def Obligations.ParsingInvertsRendering : Prop :=
  (∀ i : Instr, i.wellFormed = true →
    ∃ line, TextCodec.render (encode i) = some line ∧ TextCodec.parse line = .ok (encode i)) ∧
  TextCodec.render ⟨.pos, 18#6, 48#6, 0#6, 19#6, 24#6⟩ =
    some ['S', 'T', 'A', ' ', '1', '2', '0', '0', '(', '2', ':', '3', ')'] ∧
  TextCodec.parse ['S', 'T', 'A', ' ', '1', '2', '0', '0', '(', '2', ':', '3', ')'] =
    .ok ⟨.pos, 18#6, 48#6, 0#6, 19#6, 24#6⟩
end

