-- ==== Sys2Proof/Laws/Memory.lean ====
section
/-! SUPPORT. What the memory operations do: a write is read back and leaves every other address alone, and every
operation keeps the canonical form. -/

namespace Sys2Proof.Machine

/-- A value listed for `a` is found at `a`, and no other address changes. -/
theorem lookupCells_insertCells (cells : List (Nat × Cell)) (a b : Nat) (v : Cell) :
    lookupCells (insertCells cells a v) b = if b = a then some v else lookupCells cells b := by
  induction cells with
  | nil => simp [insertCells, lookupCells, Memory.unlisted, eq_comm]
  | cons p rest ih =>
    obtain ⟨k, w⟩ := p
    by_cases hb : b = a
    · subst b
      simp only [insertCells]
      split
      · simp [lookupCells]
      · split
        · simp [lookupCells]
        · simp [lookupCells, ih, Ne.symm (by assumption : ¬ a = k)]
    · have hab : ¬ a = b := fun h => hb h.symm
      simp only [insertCells, if_neg hb] at ih ⊢
      split
      · simp [lookupCells, hab]
      · split
        · subst a
          simp [lookupCells, hab]
        · simp [lookupCells, ih]

theorem Memory.lookup_write (m : Memory) (a b : Nat) (v : Cell) :
    (m.write a v).lookup b = if b = a then some v else m.lookup b :=
  lookupCells_insertCells m.cells a b v

@[simp] theorem Memory.write_epoch (m : Memory) (a : Nat) (v : Cell) : (m.write a v).epoch = m.epoch := rfl

/-- Every key of an insertion is the new address or an old key. -/
theorem mem_insertCells {cells : List (Nat × Cell)} {a : Nat} {v : Cell} {p : Nat × Cell}
    (h : p ∈ insertCells cells a v) : p = (a, v) ∨ p ∈ cells := by
  induction cells with
  | nil => simpa [insertCells] using h
  | cons q rest ih =>
    simp only [insertCells] at h
    split at h
    · simpa using h
    · split at h
      · obtain rfl | h := List.mem_cons.mp h
        · exact .inl rfl
        · exact .inr (List.mem_cons_of_mem _ h)
      · obtain rfl | h := List.mem_cons.mp h
        · exact .inr List.mem_cons_self
        · exact (ih h).imp_right (List.mem_cons_of_mem _)

theorem insertCells_rising {cells : List (Nat × Cell)} (a : Nat) (v : Cell)
    (h : cells.Pairwise (fun p q => p.1 < q.1)) :
    (insertCells cells a v).Pairwise (fun p q => p.1 < q.1) := by
  induction cells with
  | nil => simp [insertCells]
  | cons q rest ih =>
    obtain ⟨hq, hrest⟩ := List.pairwise_cons.mp h
    simp only [insertCells]
    split
    case isTrue hlt =>
      refine List.pairwise_cons.mpr ⟨fun p hp => ?_, h⟩
      obtain rfl | hp := List.mem_cons.mp hp
      · exact hlt
      · exact lt_trans hlt (hq p hp)
    case isFalse hlt =>
      split
      case isTrue heq => exact List.pairwise_cons.mpr ⟨fun p hp => heq ▸ hq p hp, hrest⟩
      case isFalse hne =>
        refine List.pairwise_cons.mpr ⟨fun p hp => ?_, ih hrest⟩
        obtain rfl | hp := mem_insertCells hp
        · show q.1 < a
          omega
        · exact hq p hp

/-- A write to an address of the memory keeps the canonical form. -/
theorem Memory.write_wf {m : Memory} {a : Nat} (v : Cell) (h : m.wf) (ha : a < Config.memCells) :
    (m.write a v).wf :=
  ⟨insertCells_rising a v h.1, fun p hp => by
    obtain rfl | hp := mem_insertCells hp
    · exact ha
    · exact h.2 p hp⟩

/-- The memory a Reset leaves has the canonical form. -/
theorem Memory.reinit_wf (m : Memory) : m.reinit.wf :=
  ⟨List.Pairwise.nil, by simp [Memory.reinit]⟩

/-- The memory of the reset state has the canonical form. -/
theorem reset_mem_wf : State.reset.mem.wf :=
  ⟨List.Pairwise.nil, by simp [State.reset]⟩

/-- An address listed nowhere holds no written value. -/
theorem lookupCells_of_lt {cells : List (Nat × Cell)} {a : Nat} (h : ∀ p ∈ cells, a < p.1) :
    lookupCells cells a = none := by
  induction cells with
  | nil => rfl
  | cons p rest ih =>
    have hp : p.1 ≠ a := (h p List.mem_cons_self).ne'
    simp only [lookupCells, if_neg hp]
    exact ih fun q hq => h q (List.mem_cons_of_mem _ hq)

end Sys2Proof.Machine
end

