-- ==== Sys2Proof/Laws/Operands.lean ====
section
/-! SUPPORT. What the datapath functions answer: the bytes of the field unit, the range of the address codec, and the
cases of the operand checks. -/

namespace Sys2Proof

@[simp] theorem Sign.flip_flip (s : Sign) : s.flip.flip = s := by cases s <;> rfl

@[simp] theorem Cell.flipSign_sign (c : Cell) : c.flipSign.sign = c.sign.flip := rfl

@[simp] theorem Cell.flipSign_byte (c : Cell) (j : Nat) : c.flipSign.byte j = c.byte j := by
  unfold Cell.byte
  split <;> rfl

@[simp] theorem Cell.ofBytes_sign (sign : Sign) (f : Nat → Byte) : (Cell.ofBytes sign f).sign = sign := rfl

/-- The bytes of a cell made from bytes. -/
theorem Cell.ofBytes_byte (sign : Sign) (f : Nat → Byte) {j : Nat} (h : j < 5) :
    (Cell.ofBytes sign f).byte j = f j := by
  match j, h with
  | 0, _ => rfl
  | 1, _ => rfl
  | 2, _ => rfl
  | 3, _ => rfl
  | 4, _ => rfl

/-- Two cells with the same sign and bytes are equal. -/
theorem Cell.eq_of_bytes {c d : Cell} (hs : c.sign = d.sign) (hb : ∀ j < 5, c.byte j = d.byte j) : c = d := by
  have h0 := hb 0 (by omega)
  have h1 := hb 1 (by omega)
  have h2 := hb 2 (by omega)
  have h3 := hb 3 (by omega)
  have h4 := hb 4 (by omega)
  cases c
  cases d
  simp_all [Cell.byte]

theorem getField_sign (c : Cell) (l r : Nat) : (getField c l r).sign = if l = 0 then c.sign else .pos := by
  simp [getField, fieldRange]

theorem getField_byte (c : Cell) (l r : Nat) {j : Nat} (h : j < 5) :
    (getField c l r).byte j =
      if j < 5 - (r + 1 - max l 1) then 0#6 else c.byte (max l 1 - 1 + (j - (5 - (r + 1 - max l 1)))) :=
  Cell.ofBytes_byte _ _ h

theorem setField_sign (c v : Cell) (l r : Nat) : (setField c l r v).sign = if l = 0 then v.sign else c.sign := by
  simp [setField, fieldRange]

theorem setField_byte (c v : Cell) (l r : Nat) {j : Nat} (h : j < 5) :
    (setField c l r v).byte j =
      if max l 1 - 1 ≤ j ∧ j < max l 1 - 1 + (r + 1 - max l 1) then
        v.byte (5 - (r + 1 - max l 1) + (j - (max l 1 - 1)))
      else c.byte j :=
  Cell.ofBytes_byte _ _ h

@[simp] theorem decodeBytes_nil : decodeBytes [] = 0 := rfl

/-- Two bytes are a number below 4096. -/
theorem decodeBytes_pair (b0 b1 : Byte) : decodeBytes [b0, b1] = b0.toNat * 64 + b1.toNat := by
  simp [decodeBytes]

namespace Machine

/-- The effective address reads nothing but the index register the selector names. -/
theorem effectiveAddress_congr {o : Operand} {s t : State}
    (h : ∀ r, selectIndex o.index = some r → t.readIndex r = s.readIndex r) :
    effectiveAddress o t = effectiveAddress o s := by
  unfold effectiveAddress indexDelta
  cases hr : selectIndex o.index with
  | none => rfl
  | some r => simp only [h r hr]

/-- The checks read nothing of the state but the effective address. -/
theorem resolve_congr {o : Operand} {s t : State} (h : effectiveAddress o t = effectiveAddress o s) :
    resolve o t = resolve o s := by
  simp only [resolve, h]

/-- The checks answer an address only when every one of them passes. -/
theorem resolve_ok {o : Operand} {s : State} {addr : Nat} (h : resolve o s = .ok addr) :
    o.selectorOk = true ∧ o.fieldOk = true ∧ effectiveAddress o s = addr ∧ addr < Config.memCells := by
  unfold resolve at h
  split at h
  · cases h
  · split at h
    · cases h
    · split at h
      · cases h
      · cases h
        simp_all

/-- When all checks pass, the address is the effective address. -/
theorem resolve_of_legal {o : Operand} {s : State} (hs : o.selectorOk = true) (hf : o.fieldOk = true)
    (h0 : 0 ≤ effectiveAddress o s) (h1 : effectiveAddress o s < Config.memCells) :
    resolve o s = .ok (effectiveAddress o s).toNat := by
  simp [resolve, hs, hf, not_lt.mpr h0, not_le.mpr h1]

/-- The checks never answer the status `OK` as a fault. -/
theorem resolve_error_ne_ok {o : Operand} {s : State} {e : Status} (h : resolve o s = .error e) : e ≠ .ok := by
  unfold resolve at h
  repeat' split at h
  all_goals cases h <;> simp

/-- What every instruction can do: raise a fault, or act at its effective address and complete. -/
theorem atAddress_cases (o : Operand) (s : State) (act : Nat → State) :
    (∃ e, resolve o s = .error e ∧ atAddress o s act = .next (s.raise e)) ∨
    (∃ addr, resolve o s = .ok addr ∧ atAddress o s act = .next (act addr).complete) := by
  unfold atAddress
  cases h : resolve o s with
  | error e => exact .inl ⟨e, rfl, rfl⟩
  | ok addr => exact .inr ⟨addr, rfl, rfl⟩

theorem atAddress_of_error {o : Operand} {s : State} {e : Status} (act : Nat → State) (h : resolve o s = .error e) :
    atAddress o s act = .next (s.raise e) := by
  simp [atAddress, h]

theorem atAddress_of_ok {o : Operand} {s : State} {addr : Nat} (act : Nat → State) (h : resolve o s = .ok addr) :
    atAddress o s act = .next (act addr).complete := by
  simp [atAddress, h]

end Machine

end Sys2Proof
end

