-- ==== Sys2Proof/Laws/State.lean ====
section
/-! SUPPORT. One lemma per field per update of State, all true by definition, so that no proof unfolds an update. -/

namespace Sys2Proof.Machine

@[simp] theorem State.setA_a (s : State) (v : Cell) : (s.setA v).a = v := rfl
@[simp] theorem State.setA_x (s : State) (v : Cell) : (s.setA v).x = s.x := rfl
@[simp] theorem State.setA_i1 (s : State) (v : Cell) : (s.setA v).i1 = s.i1 := rfl
@[simp] theorem State.setA_i2 (s : State) (v : Cell) : (s.setA v).i2 = s.i2 := rfl
@[simp] theorem State.setA_i3 (s : State) (v : Cell) : (s.setA v).i3 = s.i3 := rfl
@[simp] theorem State.setA_i4 (s : State) (v : Cell) : (s.setA v).i4 = s.i4 := rfl
@[simp] theorem State.setA_i5 (s : State) (v : Cell) : (s.setA v).i5 = s.i5 := rfl
@[simp] theorem State.setA_i6 (s : State) (v : Cell) : (s.setA v).i6 = s.i6 := rfl
@[simp] theorem State.setA_ov (s : State) (v : Cell) : (s.setA v).ov = s.ov := rfl
@[simp] theorem State.setA_ci (s : State) (v : Cell) : (s.setA v).ci = s.ci := rfl
@[simp] theorem State.setA_mem (s : State) (v : Cell) : (s.setA v).mem = s.mem := rfl
@[simp] theorem State.setA_pending (s : State) (v : Cell) : (s.setA v).pending = s.pending := rfl
@[simp] theorem State.setA_response (s : State) (v : Cell) : (s.setA v).response = s.response := rfl
@[simp] theorem State.setA_readIndex (s : State) (v : Cell) (r : IndexReg) : (s.setA v).readIndex r = s.readIndex r := by
  cases r <;> rfl

@[simp] theorem State.setX_a (s : State) (v : Cell) : (s.setX v).a = s.a := rfl
@[simp] theorem State.setX_x (s : State) (v : Cell) : (s.setX v).x = v := rfl
@[simp] theorem State.setX_i1 (s : State) (v : Cell) : (s.setX v).i1 = s.i1 := rfl
@[simp] theorem State.setX_i2 (s : State) (v : Cell) : (s.setX v).i2 = s.i2 := rfl
@[simp] theorem State.setX_i3 (s : State) (v : Cell) : (s.setX v).i3 = s.i3 := rfl
@[simp] theorem State.setX_i4 (s : State) (v : Cell) : (s.setX v).i4 = s.i4 := rfl
@[simp] theorem State.setX_i5 (s : State) (v : Cell) : (s.setX v).i5 = s.i5 := rfl
@[simp] theorem State.setX_i6 (s : State) (v : Cell) : (s.setX v).i6 = s.i6 := rfl
@[simp] theorem State.setX_ov (s : State) (v : Cell) : (s.setX v).ov = s.ov := rfl
@[simp] theorem State.setX_ci (s : State) (v : Cell) : (s.setX v).ci = s.ci := rfl
@[simp] theorem State.setX_mem (s : State) (v : Cell) : (s.setX v).mem = s.mem := rfl
@[simp] theorem State.setX_pending (s : State) (v : Cell) : (s.setX v).pending = s.pending := rfl
@[simp] theorem State.setX_response (s : State) (v : Cell) : (s.setX v).response = s.response := rfl
@[simp] theorem State.setX_readIndex (s : State) (v : Cell) (r : IndexReg) : (s.setX v).readIndex r = s.readIndex r := by
  cases r <;> rfl

@[simp] theorem State.setOv_a (s : State) (v : Overflow) : (s.setOv v).a = s.a := rfl
@[simp] theorem State.setOv_x (s : State) (v : Overflow) : (s.setOv v).x = s.x := rfl
@[simp] theorem State.setOv_i1 (s : State) (v : Overflow) : (s.setOv v).i1 = s.i1 := rfl
@[simp] theorem State.setOv_i2 (s : State) (v : Overflow) : (s.setOv v).i2 = s.i2 := rfl
@[simp] theorem State.setOv_i3 (s : State) (v : Overflow) : (s.setOv v).i3 = s.i3 := rfl
@[simp] theorem State.setOv_i4 (s : State) (v : Overflow) : (s.setOv v).i4 = s.i4 := rfl
@[simp] theorem State.setOv_i5 (s : State) (v : Overflow) : (s.setOv v).i5 = s.i5 := rfl
@[simp] theorem State.setOv_i6 (s : State) (v : Overflow) : (s.setOv v).i6 = s.i6 := rfl
@[simp] theorem State.setOv_ov (s : State) (v : Overflow) : (s.setOv v).ov = v := rfl
@[simp] theorem State.setOv_ci (s : State) (v : Overflow) : (s.setOv v).ci = s.ci := rfl
@[simp] theorem State.setOv_mem (s : State) (v : Overflow) : (s.setOv v).mem = s.mem := rfl
@[simp] theorem State.setOv_pending (s : State) (v : Overflow) : (s.setOv v).pending = s.pending := rfl
@[simp] theorem State.setOv_response (s : State) (v : Overflow) : (s.setOv v).response = s.response := rfl
@[simp] theorem State.setOv_readIndex (s : State) (v : Overflow) (r : IndexReg) : (s.setOv v).readIndex r = s.readIndex r := by
  cases r <;> rfl

@[simp] theorem State.setCi_a (s : State) (v : Comparison) : (s.setCi v).a = s.a := rfl
@[simp] theorem State.setCi_x (s : State) (v : Comparison) : (s.setCi v).x = s.x := rfl
@[simp] theorem State.setCi_i1 (s : State) (v : Comparison) : (s.setCi v).i1 = s.i1 := rfl
@[simp] theorem State.setCi_i2 (s : State) (v : Comparison) : (s.setCi v).i2 = s.i2 := rfl
@[simp] theorem State.setCi_i3 (s : State) (v : Comparison) : (s.setCi v).i3 = s.i3 := rfl
@[simp] theorem State.setCi_i4 (s : State) (v : Comparison) : (s.setCi v).i4 = s.i4 := rfl
@[simp] theorem State.setCi_i5 (s : State) (v : Comparison) : (s.setCi v).i5 = s.i5 := rfl
@[simp] theorem State.setCi_i6 (s : State) (v : Comparison) : (s.setCi v).i6 = s.i6 := rfl
@[simp] theorem State.setCi_ov (s : State) (v : Comparison) : (s.setCi v).ov = s.ov := rfl
@[simp] theorem State.setCi_ci (s : State) (v : Comparison) : (s.setCi v).ci = v := rfl
@[simp] theorem State.setCi_mem (s : State) (v : Comparison) : (s.setCi v).mem = s.mem := rfl
@[simp] theorem State.setCi_pending (s : State) (v : Comparison) : (s.setCi v).pending = s.pending := rfl
@[simp] theorem State.setCi_response (s : State) (v : Comparison) : (s.setCi v).response = s.response := rfl
@[simp] theorem State.setCi_readIndex (s : State) (v : Comparison) (r : IndexReg) : (s.setCi v).readIndex r = s.readIndex r := by
  cases r <;> rfl

@[simp] theorem State.setMem_a (s : State) (k : Nat) (v : Cell) : (s.setMem k v).a = s.a := rfl
@[simp] theorem State.setMem_x (s : State) (k : Nat) (v : Cell) : (s.setMem k v).x = s.x := rfl
@[simp] theorem State.setMem_i1 (s : State) (k : Nat) (v : Cell) : (s.setMem k v).i1 = s.i1 := rfl
@[simp] theorem State.setMem_i2 (s : State) (k : Nat) (v : Cell) : (s.setMem k v).i2 = s.i2 := rfl
@[simp] theorem State.setMem_i3 (s : State) (k : Nat) (v : Cell) : (s.setMem k v).i3 = s.i3 := rfl
@[simp] theorem State.setMem_i4 (s : State) (k : Nat) (v : Cell) : (s.setMem k v).i4 = s.i4 := rfl
@[simp] theorem State.setMem_i5 (s : State) (k : Nat) (v : Cell) : (s.setMem k v).i5 = s.i5 := rfl
@[simp] theorem State.setMem_i6 (s : State) (k : Nat) (v : Cell) : (s.setMem k v).i6 = s.i6 := rfl
@[simp] theorem State.setMem_ov (s : State) (k : Nat) (v : Cell) : (s.setMem k v).ov = s.ov := rfl
@[simp] theorem State.setMem_ci (s : State) (k : Nat) (v : Cell) : (s.setMem k v).ci = s.ci := rfl
@[simp] theorem State.setMem_mem (s : State) (k : Nat) (v : Cell) : (s.setMem k v).mem = s.mem.write k v := rfl
@[simp] theorem State.setMem_pending (s : State) (k : Nat) (v : Cell) : (s.setMem k v).pending = s.pending := rfl
@[simp] theorem State.setMem_response (s : State) (k : Nat) (v : Cell) : (s.setMem k v).response = s.response := rfl
@[simp] theorem State.setMem_readIndex (s : State) (k : Nat) (v : Cell) (r : IndexReg) : (s.setMem k v).readIndex r = s.readIndex r := by
  cases r <;> rfl

@[simp] theorem State.setPending_a (s : State) (ts : List Transaction) : (s.setPending ts).a = s.a := rfl
@[simp] theorem State.setPending_x (s : State) (ts : List Transaction) : (s.setPending ts).x = s.x := rfl
@[simp] theorem State.setPending_i1 (s : State) (ts : List Transaction) : (s.setPending ts).i1 = s.i1 := rfl
@[simp] theorem State.setPending_i2 (s : State) (ts : List Transaction) : (s.setPending ts).i2 = s.i2 := rfl
@[simp] theorem State.setPending_i3 (s : State) (ts : List Transaction) : (s.setPending ts).i3 = s.i3 := rfl
@[simp] theorem State.setPending_i4 (s : State) (ts : List Transaction) : (s.setPending ts).i4 = s.i4 := rfl
@[simp] theorem State.setPending_i5 (s : State) (ts : List Transaction) : (s.setPending ts).i5 = s.i5 := rfl
@[simp] theorem State.setPending_i6 (s : State) (ts : List Transaction) : (s.setPending ts).i6 = s.i6 := rfl
@[simp] theorem State.setPending_ov (s : State) (ts : List Transaction) : (s.setPending ts).ov = s.ov := rfl
@[simp] theorem State.setPending_ci (s : State) (ts : List Transaction) : (s.setPending ts).ci = s.ci := rfl
@[simp] theorem State.setPending_mem (s : State) (ts : List Transaction) : (s.setPending ts).mem = s.mem := rfl
@[simp] theorem State.setPending_pending (s : State) (ts : List Transaction) : (s.setPending ts).pending = ts := rfl
@[simp] theorem State.setPending_response (s : State) (ts : List Transaction) : (s.setPending ts).response = s.response := rfl
@[simp] theorem State.setPending_readIndex (s : State) (ts : List Transaction) (r : IndexReg) : (s.setPending ts).readIndex r = s.readIndex r := by
  cases r <;> rfl

@[simp] theorem State.respond_a (s : State) (r : Option Response) : (s.respond r).a = s.a := rfl
@[simp] theorem State.respond_x (s : State) (r : Option Response) : (s.respond r).x = s.x := rfl
@[simp] theorem State.respond_i1 (s : State) (r : Option Response) : (s.respond r).i1 = s.i1 := rfl
@[simp] theorem State.respond_i2 (s : State) (r : Option Response) : (s.respond r).i2 = s.i2 := rfl
@[simp] theorem State.respond_i3 (s : State) (r : Option Response) : (s.respond r).i3 = s.i3 := rfl
@[simp] theorem State.respond_i4 (s : State) (r : Option Response) : (s.respond r).i4 = s.i4 := rfl
@[simp] theorem State.respond_i5 (s : State) (r : Option Response) : (s.respond r).i5 = s.i5 := rfl
@[simp] theorem State.respond_i6 (s : State) (r : Option Response) : (s.respond r).i6 = s.i6 := rfl
@[simp] theorem State.respond_ov (s : State) (r : Option Response) : (s.respond r).ov = s.ov := rfl
@[simp] theorem State.respond_ci (s : State) (r : Option Response) : (s.respond r).ci = s.ci := rfl
@[simp] theorem State.respond_mem (s : State) (r : Option Response) : (s.respond r).mem = s.mem := rfl
@[simp] theorem State.respond_pending (s : State) (r : Option Response) : (s.respond r).pending = s.pending := rfl
@[simp] theorem State.respond_response (s : State) (r : Option Response) : (s.respond r).response = r := rfl
@[simp] theorem State.respond_readIndex (s : State) (p : Option Response) (r : IndexReg) : (s.respond p).readIndex r = s.readIndex r := by
  cases r <;> rfl

@[simp] theorem State.setIndex_a (s : State) (r : IndexReg) (v : IndexCell) : (s.setIndex r v).a = s.a := by
  cases r <;> rfl
@[simp] theorem State.setIndex_x (s : State) (r : IndexReg) (v : IndexCell) : (s.setIndex r v).x = s.x := by
  cases r <;> rfl
@[simp] theorem State.setIndex_ov (s : State) (r : IndexReg) (v : IndexCell) : (s.setIndex r v).ov = s.ov := by
  cases r <;> rfl
@[simp] theorem State.setIndex_ci (s : State) (r : IndexReg) (v : IndexCell) : (s.setIndex r v).ci = s.ci := by
  cases r <;> rfl
@[simp] theorem State.setIndex_mem (s : State) (r : IndexReg) (v : IndexCell) : (s.setIndex r v).mem = s.mem := by
  cases r <;> rfl
@[simp] theorem State.setIndex_pending (s : State) (r : IndexReg) (v : IndexCell) : (s.setIndex r v).pending = s.pending := by
  cases r <;> rfl
@[simp] theorem State.setIndex_response (s : State) (r : IndexReg) (v : IndexCell) : (s.setIndex r v).response = s.response := by
  cases r <;> rfl

/-- Reading back an index register after writing one. -/
theorem State.readIndex_setIndex (s : State) (r q : IndexReg) (v : IndexCell) :
    (s.setIndex r v).readIndex q = if q = r then v else s.readIndex q := by
  cases r <;> cases q <;> rfl

@[simp] theorem State.readIndex_setIndex_same (s : State) (r : IndexReg) (v : IndexCell) :
    (s.setIndex r v).readIndex r = v := by
  cases r <;> rfl

theorem State.readIndex_setIndex_other (s : State) (r q : IndexReg) (v : IndexCell) (h : q ≠ r) :
    (s.setIndex r v).readIndex q = s.readIndex q := by
  simp [State.readIndex_setIndex, h]

@[simp] theorem State.complete_a (s : State) : (s.complete).a = s.a := rfl
@[simp] theorem State.complete_x (s : State) : (s.complete).x = s.x := rfl
@[simp] theorem State.complete_i1 (s : State) : (s.complete).i1 = s.i1 := rfl
@[simp] theorem State.complete_i2 (s : State) : (s.complete).i2 = s.i2 := rfl
@[simp] theorem State.complete_i3 (s : State) : (s.complete).i3 = s.i3 := rfl
@[simp] theorem State.complete_i4 (s : State) : (s.complete).i4 = s.i4 := rfl
@[simp] theorem State.complete_i5 (s : State) : (s.complete).i5 = s.i5 := rfl
@[simp] theorem State.complete_i6 (s : State) : (s.complete).i6 = s.i6 := rfl
@[simp] theorem State.complete_ov (s : State) : (s.complete).ov = s.ov := rfl
@[simp] theorem State.complete_ci (s : State) : (s.complete).ci = s.ci := rfl
@[simp] theorem State.complete_mem (s : State) : (s.complete).mem = s.mem := rfl
@[simp] theorem State.complete_pending (s : State) : (s.complete).pending = s.pending := rfl
@[simp] theorem State.complete_response (s : State) : (s.complete).response = some (.status .ok) := rfl

@[simp] theorem State.raise_a (s : State) (e : Status) : (s.raise e).a = s.a := rfl
@[simp] theorem State.raise_x (s : State) (e : Status) : (s.raise e).x = s.x := rfl
@[simp] theorem State.raise_i1 (s : State) (e : Status) : (s.raise e).i1 = s.i1 := rfl
@[simp] theorem State.raise_i2 (s : State) (e : Status) : (s.raise e).i2 = s.i2 := rfl
@[simp] theorem State.raise_i3 (s : State) (e : Status) : (s.raise e).i3 = s.i3 := rfl
@[simp] theorem State.raise_i4 (s : State) (e : Status) : (s.raise e).i4 = s.i4 := rfl
@[simp] theorem State.raise_i5 (s : State) (e : Status) : (s.raise e).i5 = s.i5 := rfl
@[simp] theorem State.raise_i6 (s : State) (e : Status) : (s.raise e).i6 = s.i6 := rfl
@[simp] theorem State.raise_ov (s : State) (e : Status) : (s.raise e).ov = s.ov := rfl
@[simp] theorem State.raise_ci (s : State) (e : Status) : (s.raise e).ci = s.ci := rfl
@[simp] theorem State.raise_mem (s : State) (e : Status) : (s.raise e).mem = s.mem := rfl
@[simp] theorem State.raise_pending (s : State) (e : Status) : (s.raise e).pending = s.pending := rfl
@[simp] theorem State.raise_response (s : State) (e : Status) : (s.raise e).response = some (.status e) := rfl

end Sys2Proof.Machine
end

