-- ==== Sys2Proof/Laws/Exec.lean ====
section
/-! SUPPORT. What one instruction does, said once for all 24, and what one transaction does: the provers cite these
and unfold no meaning. -/

namespace Sys2Proof.Machine

/-- What each instruction does at its effective address, all checks passed. -/
def actAt (i : Instr) (s : State) (addr : Nat) : State :=
  let t := fetchField i.operand addr s
  match i with
  | .lda _ => s.setA t
  | .ld1 _ => s.setIndex .i1 (cellToIndex t)
  | .ld2 _ => s.setIndex .i2 (cellToIndex t)
  | .ld3 _ => s.setIndex .i3 (cellToIndex t)
  | .ld4 _ => s.setIndex .i4 (cellToIndex t)
  | .ld5 _ => s.setIndex .i5 (cellToIndex t)
  | .ld6 _ => s.setIndex .i6 (cellToIndex t)
  | .ldx _ => s.setX t
  | .ldan _ => s.setA t.flipSign
  | .ld1n _ => s.setIndex .i1 (cellToIndex t.flipSign)
  | .ld2n _ => s.setIndex .i2 (cellToIndex t.flipSign)
  | .ld3n _ => s.setIndex .i3 (cellToIndex t.flipSign)
  | .ld4n _ => s.setIndex .i4 (cellToIndex t.flipSign)
  | .ld5n _ => s.setIndex .i5 (cellToIndex t.flipSign)
  | .ld6n _ => s.setIndex .i6 (cellToIndex t.flipSign)
  | .ldxn _ => s.setX t.flipSign
  | .sta o => s.setMem addr (mergeField o addr s.a s)
  | .st1 o => s.setMem addr (mergeField o addr (indexToCell s.i1) s)
  | .st2 o => s.setMem addr (mergeField o addr (indexToCell s.i2) s)
  | .st3 o => s.setMem addr (mergeField o addr (indexToCell s.i3) s)
  | .st4 o => s.setMem addr (mergeField o addr (indexToCell s.i4) s)
  | .st5 o => s.setMem addr (mergeField o addr (indexToCell s.i5) s)
  | .st6 o => s.setMem addr (mergeField o addr (indexToCell s.i6) s)
  | .stx o => s.setMem addr (mergeField o addr s.x s)

/-- Every instruction is its operand checks and then its act. -/
theorem exec_eq (i : Instr) (s : State) : exec i s = atAddress i.operand s (actAt i s) := by
  cases i <;> rfl

/-- What an instruction can do: raise the fault its checks find, or act and complete. It always answers a next
state. -/
theorem exec_cases (i : Instr) (s : State) :
    (∃ e, resolve i.operand s = .error e ∧ exec i s = .next (s.raise e)) ∨
    (∃ addr, resolve i.operand s = .ok addr ∧ exec i s = .next (actAt i s addr).complete) := by
  rw [exec_eq]
  exact atAddress_cases i.operand s (actAt i s)

/-- An act touches no flag and neither side of the port. -/
theorem actAt_frame (i : Instr) (s : State) (addr : Nat) :
    (actAt i s addr).ov = s.ov ∧ (actAt i s addr).ci = s.ci ∧ (actAt i s addr).pending = s.pending := by
  cases i <;> simp [actAt]

/-- An act leaves memory as it was, or writes the one cell at the address. -/
theorem actAt_mem (i : Instr) (s : State) (addr : Nat) :
    (actAt i s addr).mem = s.mem ∨ ∃ v, (actAt i s addr).mem = s.mem.write addr v := by
  cases i
  case sta o => exact .inr ⟨_, rfl⟩
  case st1 o => exact .inr ⟨_, rfl⟩
  case st2 o => exact .inr ⟨_, rfl⟩
  case st3 o => exact .inr ⟨_, rfl⟩
  case st4 o => exact .inr ⟨_, rfl⟩
  case st5 o => exact .inr ⟨_, rfl⟩
  case st6 o => exact .inr ⟨_, rfl⟩
  case stx o => exact .inr ⟨_, rfl⟩
  all_goals exact .inl (by simp [actAt])

/-- The step when nothing is pending. -/
theorem step_idle {s : State} (h : s.pending = []) : step s = .next s.idle := by
  simp [step, h]

/-- The step when a transaction is pending. -/
theorem step_pending {s : State} {t : Transaction} {rest : List Transaction} (h : s.pending = t :: rest) :
    step s = perform t (s.setPending rest) := by
  simp [step, h]

/-- A run of no steps. -/
theorem run_zero (s : State) : Sys2Proof.core.run 0 s = .next s := rfl

/-- On any machine, a run whose first step goes on. -/
theorem run_succ_of_step (M : Host.Core) (n : Nat) {s t : M.State} (h : M.step s = .next t) :
    M.run (n + 1) s = M.run n t := by
  simp [Host.Core.run, h]

/-- On this machine, a run whose first step goes on. -/
theorem run_succ {s t : State} (n : Nat) (h : step s = .next t) :
    Sys2Proof.core.run (n + 1) s = Sys2Proof.core.run n t :=
  run_succ_of_step Sys2Proof.core n h

/-- An `Execute` whose image decodes runs the instruction. -/
theorem perform_execute_ok {w : CellImage} {i : Instr} (s : State) (h : decodeImage w = .ok i) :
    perform (.execute w) s = exec i s := by
  simp [perform, performExecute, h]

/-- An `Execute` whose image does not decode raises `UnimplementedOpcode`. -/
theorem perform_execute_error {w : CellImage} {r : Reject} (s : State) (h : decodeImage w = .error r) :
    perform (.execute w) s = .next (s.raise .unimplementedOpcode) := by
  cases r
  simp [perform, performExecute, h, rejectStatus]

end Sys2Proof.Machine
end

