-- ==== Sys2Proof/Laws/PerInstr.lean ====
section
/-! SUPPORT. Facts proved constructor by constructor. -/

namespace Sys2Proof.Laws.OpcodeMap

/-- The instruction's opcode is an implemented one (spec 30_encoding.md R54), and a cell that carries it decodes to the
same constructor. -/
def Statement (i : Instr) : Prop :=
  8 ≤ i.opcode.toNat ∧ i.opcode.toNat ≤ 31 ∧
    ∃ j : Instr, decode (encode i) = .ok j ∧ j.opcode = i.opcode

theorem lda (o : Operand) : Statement (.lda o) :=
  ⟨by simp [Instr.opcode], by simp [Instr.opcode], .lda (operandOf (encode (.lda o))), rfl, rfl⟩

theorem ld1 (o : Operand) : Statement (.ld1 o) :=
  ⟨by simp [Instr.opcode], by simp [Instr.opcode], .ld1 (operandOf (encode (.ld1 o))), rfl, rfl⟩

theorem ld2 (o : Operand) : Statement (.ld2 o) :=
  ⟨by simp [Instr.opcode], by simp [Instr.opcode], .ld2 (operandOf (encode (.ld2 o))), rfl, rfl⟩

theorem ld3 (o : Operand) : Statement (.ld3 o) :=
  ⟨by simp [Instr.opcode], by simp [Instr.opcode], .ld3 (operandOf (encode (.ld3 o))), rfl, rfl⟩

theorem ld4 (o : Operand) : Statement (.ld4 o) :=
  ⟨by simp [Instr.opcode], by simp [Instr.opcode], .ld4 (operandOf (encode (.ld4 o))), rfl, rfl⟩

theorem ld5 (o : Operand) : Statement (.ld5 o) :=
  ⟨by simp [Instr.opcode], by simp [Instr.opcode], .ld5 (operandOf (encode (.ld5 o))), rfl, rfl⟩

theorem ld6 (o : Operand) : Statement (.ld6 o) :=
  ⟨by simp [Instr.opcode], by simp [Instr.opcode], .ld6 (operandOf (encode (.ld6 o))), rfl, rfl⟩

theorem ldx (o : Operand) : Statement (.ldx o) :=
  ⟨by simp [Instr.opcode], by simp [Instr.opcode], .ldx (operandOf (encode (.ldx o))), rfl, rfl⟩

theorem ldan (o : Operand) : Statement (.ldan o) :=
  ⟨by simp [Instr.opcode], by simp [Instr.opcode], .ldan (operandOf (encode (.ldan o))), rfl, rfl⟩

theorem ld1n (o : Operand) : Statement (.ld1n o) :=
  ⟨by simp [Instr.opcode], by simp [Instr.opcode], .ld1n (operandOf (encode (.ld1n o))), rfl, rfl⟩

theorem ld2n (o : Operand) : Statement (.ld2n o) :=
  ⟨by simp [Instr.opcode], by simp [Instr.opcode], .ld2n (operandOf (encode (.ld2n o))), rfl, rfl⟩

theorem ld3n (o : Operand) : Statement (.ld3n o) :=
  ⟨by simp [Instr.opcode], by simp [Instr.opcode], .ld3n (operandOf (encode (.ld3n o))), rfl, rfl⟩

theorem ld4n (o : Operand) : Statement (.ld4n o) :=
  ⟨by simp [Instr.opcode], by simp [Instr.opcode], .ld4n (operandOf (encode (.ld4n o))), rfl, rfl⟩

theorem ld5n (o : Operand) : Statement (.ld5n o) :=
  ⟨by simp [Instr.opcode], by simp [Instr.opcode], .ld5n (operandOf (encode (.ld5n o))), rfl, rfl⟩

theorem ld6n (o : Operand) : Statement (.ld6n o) :=
  ⟨by simp [Instr.opcode], by simp [Instr.opcode], .ld6n (operandOf (encode (.ld6n o))), rfl, rfl⟩

theorem ldxn (o : Operand) : Statement (.ldxn o) :=
  ⟨by simp [Instr.opcode], by simp [Instr.opcode], .ldxn (operandOf (encode (.ldxn o))), rfl, rfl⟩

theorem sta (o : Operand) : Statement (.sta o) :=
  ⟨by simp [Instr.opcode], by simp [Instr.opcode], .sta (operandOf (encode (.sta o))), rfl, rfl⟩

theorem st1 (o : Operand) : Statement (.st1 o) :=
  ⟨by simp [Instr.opcode], by simp [Instr.opcode], .st1 (operandOf (encode (.st1 o))), rfl, rfl⟩

theorem st2 (o : Operand) : Statement (.st2 o) :=
  ⟨by simp [Instr.opcode], by simp [Instr.opcode], .st2 (operandOf (encode (.st2 o))), rfl, rfl⟩

theorem st3 (o : Operand) : Statement (.st3 o) :=
  ⟨by simp [Instr.opcode], by simp [Instr.opcode], .st3 (operandOf (encode (.st3 o))), rfl, rfl⟩

theorem st4 (o : Operand) : Statement (.st4 o) :=
  ⟨by simp [Instr.opcode], by simp [Instr.opcode], .st4 (operandOf (encode (.st4 o))), rfl, rfl⟩

theorem st5 (o : Operand) : Statement (.st5 o) :=
  ⟨by simp [Instr.opcode], by simp [Instr.opcode], .st5 (operandOf (encode (.st5 o))), rfl, rfl⟩

theorem st6 (o : Operand) : Statement (.st6 o) :=
  ⟨by simp [Instr.opcode], by simp [Instr.opcode], .st6 (operandOf (encode (.st6 o))), rfl, rfl⟩

theorem stx (o : Operand) : Statement (.stx o) :=
  ⟨by simp [Instr.opcode], by simp [Instr.opcode], .stx (operandOf (encode (.stx o))), rfl, rfl⟩

end Sys2Proof.Laws.OpcodeMap
end

