-- ==== Sys2Proof/Laws/TextCodec.lean ====
section
/-! SUPPORT. What the sign of an address can be, character by character. -/

namespace Sys2Proof.TextCodec

/-- A token of one character that is no sign is malformed. -/
theorem parseSign_other {c : Char} (hp : c ≠ '+') (hm : c ≠ '-') : parseSign [c] = .error .malformedSign := by
  simp [parseSign, hp, hm]

theorem addressSign_digit {c : Char} (rest : List Char) (h : isDecimal c = true) :
    addressSign (c :: rest) = .ok (.pos, c :: rest) := by
  simp [addressSign, h]

@[simp] theorem addressSign_minus (rest : List Char) : addressSign ('-' :: rest) = .ok (.neg, rest) := rfl

@[simp] theorem addressSign_plus (rest : List Char) : addressSign ('+' :: rest) = .error .malformedLine := rfl

@[simp] theorem addressSign_nil : addressSign [] = .error .malformedLine := rfl

/-- A character that is neither a digit nor a sign fails with `MalformedSign`. -/
theorem addressSign_other {c : Char} (rest : List Char) (hd : isDecimal c = false) (hp : c ≠ '+') (hm : c ≠ '-') :
    addressSign (c :: rest) = .error .malformedSign := by
  simp [addressSign, hd, parseSign_other hp hm]

end Sys2Proof.TextCodec
end

