-- ==== Sys2Proof/Tests/Slice0.lean ====
section
/-! SUPPORT. Tests whose expected results are the spec's own (the worked examples of 41_load.md, 42_load_negative.md and
43_store.md, and the vectors of 95_test_vectors.md), and a witness for the hypotheses of each statement. -/

namespace Sys2Proof.Tests

open Sys2Proof.Machine

/-! ## Helpers -/

/-- The memory cell the spec's examples use. -/
def sample : Cell := ⟨.neg, 1#6, 2#6, 3#6, 4#6, 5#6⟩

/-- The accumulator and extension value the spec's store examples use. -/
def source : Cell := ⟨.pos, 6#6, 7#6, 8#6, 9#6, 0#6⟩

/-- After reset, with `sample` in cell 2000. -/
def start : State := State.reset.setMem 2000 sample

/-- `s` with one transaction pending. -/
def issue (s : State) (t : Transaction) : State := s.setPending [t]

/-- Whether the step that performs `Execute w` from `s` answers a state with status `e` of which `p` holds. -/
def after (s : State) (w : CellImage) (e : Status) (p : State → Bool) : Bool :=
  match step (issue s (.execute w)) with
  | .next t => decide (t.response = some (.status e)) && p t
  | .fault _ => false
  | .refused _ => false

/-- Whether `Execute w` from `s` returns `e` and changes nothing. -/
def faults (s : State) (w : CellImage) (e : Status) : Bool :=
  after s w e (fun t => decide (t = s.raise e))

/-- An operand with a field, selector and address. -/
def operand (sign : Sign) (b0 b1 index : Byte) (left right : BitVec 3) : Operand := ⟨sign, b0, b1, index, left, right⟩

/-! ## WellFormed: one ill-formed term for each check (R51, R52) -/

theorem test_wf_accepts_the_extremes :
    Instr.wellFormed (.lda (operand .neg 63 63 6 0 0)) = true ∧
    Instr.wellFormed (.stx (operand .pos 0 0 0 5 5)) = true := by
  decide

theorem test_wf_refuses_selector_seven : Instr.wellFormed (.lda (operand .pos 0 0 7 0 5)) = false := by decide

theorem test_wf_refuses_left_above_right : Instr.wellFormed (.sta (operand .pos 0 0 0 1 0)) = false := by decide

theorem test_wf_refuses_right_above_five : Instr.wellFormed (.ldxn (operand .pos 0 0 0 0 6)) = false := by decide

/-! ## Decoding: the words of the spec's worked examples, every constructor -/

/-- The images of the examples of 41_load.md R91 to R98. -/
theorem test_decode_loads :
    decodeImage 0x1F4000C8#31 = .ok (.lda (operand .pos 31 16 0 0 3)) ∧
    decodeImage 0x1F400089#31 = .ok (.ld1 (operand .pos 31 16 0 0 2)) ∧
    decodeImage 0x1F40014A#31 = .ok (.ld2 (operand .pos 31 16 0 0 5)) ∧
    decodeImage 0x1F40094B#31 = .ok (.ld3 (operand .pos 31 16 0 4 5)) ∧
    decodeImage 0x1F4002CC#31 = .ok (.ld4 (operand .pos 31 16 0 1 3)) ∧
    decodeImage 0x1F40000D#31 = .ok (.ld5 (operand .pos 31 16 0 0 0)) ∧
    decodeImage 0x1F18614E#31 = .ok (.ld6 (operand .pos 31 6 6 0 5)) ∧
    decodeImage 0x1F400B4F#31 = .ok (.ldx (operand .pos 31 16 0 5 5)) := by
  decide

/-- The images of the examples of 42_load_negative.md R101 to R108. -/
theorem test_decode_negative_loads :
    decodeImage 0x1F400150#31 = .ok (.ldan (operand .pos 31 16 0 0 5)) ∧
    decodeImage 0x1F400091#31 = .ok (.ld1n (operand .pos 31 16 0 0 2)) ∧
    decodeImage 0x1F400952#31 = .ok (.ld2n (operand .pos 31 16 0 4 5)) ∧
    decodeImage 0x1F400013#31 = .ok (.ld3n (operand .pos 31 16 0 0 0)) ∧
    decodeImage 0x01900154#31 = .ok (.ld4n (operand .pos 1 36 0 0 5)) ∧
    decodeImage 0x1F4006D5#31 = .ok (.ld5n (operand .pos 31 16 0 3 3)) ∧
    decodeImage 0x1F541156#31 = .ok (.ld6n (operand .pos 31 21 1 0 5)) ∧
    decodeImage 0x1F400357#31 = .ok (.ldxn (operand .pos 31 16 0 1 5)) := by
  decide

/-- The images of the examples of 43_store.md R111 to R118. -/
theorem test_decode_stores :
    decodeImage 0x1F4004D8#31 = .ok (.sta (operand .pos 31 16 0 2 3)) ∧
    decodeImage 0x1F400159#31 = .ok (.st1 (operand .pos 31 16 0 0 5)) ∧
    decodeImage 0x1F40095A#31 = .ok (.st2 (operand .pos 31 16 0 4 5)) ∧
    decodeImage 0x1F40001B#31 = .ok (.st3 (operand .pos 31 16 0 0 0)) ∧
    decodeImage 0x1F4002DC#31 = .ok (.st4 (operand .pos 31 16 0 1 3)) ∧
    decodeImage 0x1F400B5D#31 = .ok (.st5 (operand .pos 31 16 0 5 5)) ∧
    decodeImage 0x1F18629E#31 = .ok (.st6 (operand .pos 31 6 6 1 2)) ∧
    decodeImage 0x1F40005F#31 = .ok (.stx (operand .pos 31 16 0 0 1)) := by
  decide

/-- The same instruction bit by bit (R49): sign 0, address 2000, selector 0, field 0:3, opcode 8. -/
theorem test_decode_bit_by_bit :
    decodeImage 0b0011111010000000000000011001000#31 = .ok (.lda (operand .pos 31 16 0 0 3)) := by decide

/-- The opcodes beside the implemented range, and 63 (R54, R55). -/
theorem test_decode_rejects_unimplemented :
    decodeImage 0x1F400147#31 = .error (.unimplementedOpcode 7) ∧
    decodeImage 0x1F400160#31 = .error (.unimplementedOpcode 32) ∧
    decodeImage 0x00000140#31 = .error (.unimplementedOpcode 0) ∧
    decodeImage 0x7FFFFFFF#31 = .error (.unimplementedOpcode 63) := by decide

/-- The host's table words: bit 30 is the sign, a set bit 31 is no image. -/
theorem test_table_words :
    decodeTableWord 31 0x408022C8 = some (.lda (operand .neg 0 32 2 1 3)) ∧
    decodeTableWord 32 0x408022C8 = some (.lda (operand .neg 0 32 2 1 3)) ∧
    decodeTableWord 32 0xC08022C8 = none ∧ decodeTableWord 8 0x1F = some (.stx (operand .pos 0 0 0 0 0)) ∧
    decodeTableWord 31 0x20 = none := by decide

/-- V-EN-1 to V-EN-15. -/
theorem test_images :
    Cell.toImage ⟨.neg, 0, 0, 0, 0, 0⟩ = 0x40000000#31 ∧ Cell.toImage ⟨.pos, 63, 63, 63, 63, 63⟩ = 0x3FFFFFFF#31 ∧
    Cell.toImage ⟨.pos, 0, 0, 0, 0, 1⟩ = 1#31 ∧ Cell.toImage ⟨.pos, 1, 0, 0, 0, 0⟩ = 0x01000000#31 ∧
    Cell.toImage ⟨.neg, 10, 11, 0, 11, 22⟩ = 0x4A2C02D6#31 ∧ Cell.toImage ⟨.pos, 18, 48, 0, 19, 24⟩ = 0x12C004D8#31 ∧
    IndexCell.toImage ⟨.neg, 0, 0⟩ = 0x1000#13 ∧ IndexCell.toImage ⟨.pos, 7, 52⟩ = 0x01F4#13 ∧
    IndexCell.toImage ⟨.neg, 63, 63⟩ = 0x1FFF#13 := by decide

/-! ## One step of every instruction: the worked examples -/

/-- The example of R91. -/
theorem test_lda : after start 0x1F4000C8#31 .ok (fun t => decide (t.a = ⟨.neg, 0#6, 0#6, 1#6, 2#6, 3#6⟩)) = true := by
  decide

/-- The example of R92. -/
theorem test_ld1 : after start 0x1F400089#31 .ok (fun t => decide (t.i1 = ⟨.neg, 1, 2⟩)) = true := by
  decide

/-- The example of R93. -/
theorem test_ld2 : after start 0x1F40014A#31 .ok (fun t => decide (t.i2 = ⟨.neg, 4, 5⟩)) = true := by
  decide

/-- The example of R94. -/
theorem test_ld3 : after start 0x1F40094B#31 .ok (fun t => decide (t.i3 = ⟨.pos, 4, 5⟩)) = true := by
  decide

/-- The example of R95. -/
theorem test_ld4 : after start 0x1F4002CC#31 .ok (fun t => decide (t.i4 = ⟨.pos, 2, 3⟩)) = true := by
  decide

/-- The example of R96. -/
theorem test_ld5 : after start 0x1F40000D#31 .ok (fun t => decide (t.i5 = ⟨.neg, 0, 0⟩)) = true := by
  decide

/-- The example of R97, the destination is the selector. -/
theorem test_ld6 :
    after (start.setIndex .i6 ⟨.pos, 0, 10⟩) 0x1F18614E#31 .ok (fun t => decide (t.i6 = ⟨.neg, 4, 5⟩)) = true := by
  decide

/-- The example of R98. -/
theorem test_ldx : after start 0x1F400B4F#31 .ok (fun t => decide (t.x = ⟨.pos, 0#6, 0#6, 0#6, 0#6, 5#6⟩)) = true := by
  decide

/-- The example of R101. -/
theorem test_ldan : after start 0x1F400150#31 .ok (fun t => decide (t.a = ⟨.pos, 1#6, 2#6, 3#6, 4#6, 5#6⟩)) = true := by
  decide

/-- The example of R102. -/
theorem test_ld1n : after start 0x1F400091#31 .ok (fun t => decide (t.i1 = ⟨.pos, 1, 2⟩)) = true := by
  decide

/-- The example of R103. -/
theorem test_ld2n : after start 0x1F400952#31 .ok (fun t => decide (t.i2 = ⟨.neg, 4, 5⟩)) = true := by
  decide

/-- The example of R104. -/
theorem test_ld3n : after start 0x1F400013#31 .ok (fun t => decide (t.i3 = ⟨.pos, 0, 0⟩)) = true := by
  decide

/-- The example of R105, a positive zero becomes a negative one. -/
theorem test_ld4n :
    after (start.setMem 100 plusZero) 0x01900154#31 .ok (fun t => decide (t.i4 = ⟨.neg, 0, 0⟩)) = true := by
  decide

/-- The example of R106. -/
theorem test_ld5n : after start 0x1F4006D5#31 .ok (fun t => decide (t.i5 = ⟨.neg, 0, 3⟩)) = true := by
  decide

/-- The example of R107, a negative displacement. -/
theorem test_ld6n :
    after (start.setIndex .i1 ⟨.neg, 0, 5⟩) 0x1F541156#31 .ok (fun t => decide (t.i6 = ⟨.pos, 4, 5⟩)) = true := by
  decide

/-- The example of R108. -/
theorem test_ldxn : after start 0x1F400357#31 .ok (fun t => decide (t.x = ⟨.neg, 1#6, 2#6, 3#6, 4#6, 5#6⟩)) = true := by
  decide

/-- The example of R111. -/
theorem test_sta :
    after (start.setA source) 0x1F4004D8#31 .ok (fun t => decide (t.mem.read 2000 = ⟨.neg, 1#6, 9#6, 0#6, 4#6, 5#6⟩ ∧ t.a = source)) = true := by
  decide

/-- The example of R112. -/
theorem test_st1 :
    after (start.setIndex .i1 ⟨.neg, 7, 9⟩) 0x1F400159#31 .ok (fun t => decide (t.mem.read 2000 = ⟨.neg, 0#6, 0#6, 0#6, 7#6, 9#6⟩)) = true := by
  decide

/-- The example of R113. -/
theorem test_st2 :
    after (start.setIndex .i2 ⟨.pos, 7, 9⟩) 0x1F40095A#31 .ok (fun t => decide (t.mem.read 2000 = ⟨.neg, 1#6, 2#6, 3#6, 7#6, 9#6⟩)) = true := by
  decide

/-- The example of R114. -/
theorem test_st3 :
    after (start.setIndex .i3 ⟨.pos, 7, 9⟩) 0x1F40001B#31 .ok (fun t => decide (t.mem.read 2000 = ⟨.pos, 1#6, 2#6, 3#6, 4#6, 5#6⟩)) = true := by
  decide

/-- The example of R115. -/
theorem test_st4 :
    after (start.setIndex .i4 ⟨.pos, 7, 9⟩) 0x1F4002DC#31 .ok (fun t => decide (t.mem.read 2000 = ⟨.neg, 0#6, 7#6, 9#6, 4#6, 5#6⟩)) = true := by
  decide

/-- The example of R116. -/
theorem test_st5 :
    after (start.setIndex .i5 ⟨.pos, 7, 9⟩) 0x1F400B5D#31 .ok (fun t => decide (t.mem.read 2000 = ⟨.neg, 1#6, 2#6, 3#6, 4#6, 9#6⟩)) = true := by
  decide

/-- The example of R117, one register gives displacement and data. -/
theorem test_st6 :
    after (start.setIndex .i6 ⟨.pos, 0, 10⟩) 0x1F18629E#31 .ok (fun t => decide (t.mem.read 2000 = ⟨.neg, 0#6, 10#6, 3#6, 4#6, 5#6⟩)) = true := by
  decide

/-- The example of R118. -/
theorem test_stx :
    after (start.setX source) 0x1F40005F#31 .ok (fun t => decide (t.mem.read 2000 = ⟨.pos, 0#6, 2#6, 3#6, 4#6, 5#6⟩)) = true := by
  decide

/-- The source's end-to-end load (S-7). -/
theorem test_lda_fixture :
    after ((start.setIndex .i2 ⟨.pos, 0, 63⟩).setMem 31 ⟨.neg, 10#6, 11#6, 0#6, 11#6, 22#6⟩) 0x408022C8#31 .ok
      (fun t => decide (t.a = ⟨.pos, 0#6, 0#6, 10#6, 11#6, 0#6⟩)) = true := by
  decide

/-- The source's end-to-end store (S-8). -/
theorem test_sta_fixture :
    after ((start.setA ⟨.pos, 1#6, 2#6, 3#6, 4#6, 5#6⟩).setMem 1200 ⟨.neg, 20#6, 21#6, 22#6, 23#6, 24#6⟩) 0x12C004D8#31 .ok
      (fun t => decide (t.mem.read 1200 = ⟨.neg, 20#6, 4#6, 5#6, 23#6, 24#6⟩)) = true := by
  decide

/-- V-LD-21: a negative zero address is address 0. -/
theorem test_ld2_minus_zero :
    after (start.setMem 0 ⟨.pos, 0#6, 0#6, 0#6, 1#6, 2#6⟩) 0x4000014A#31 .ok (fun t => decide (t.i2 = ⟨.pos, 1, 2⟩)) = true := by
  decide

/-- V-ST-18: one byte of an index register. -/
theorem test_st3_one_byte :
    after (start.setIndex .i3 ⟨.neg, 7, 9⟩) 0x1F4006DB#31 .ok (fun t => decide (t.mem.read 2000 = ⟨.neg, 1#6, 2#6, 9#6, 4#6, 5#6⟩)) = true := by
  decide

/-- V-LN-6: a negative zero becomes a positive one. -/
theorem test_ldan_zero :
    after (start.setMem 100 ⟨.neg, 0#6, 0#6, 0#6, 0#6, 0#6⟩) 0x01900150#31 .ok (fun t => decide (t.a = ⟨.pos, 0#6, 0#6, 0#6, 0#6, 0#6⟩)) = true := by
  decide

/-! ## Faults and their order: V-FT-1 to V-FT-14 -/

/-- The start state of 95_test_vectors.md section 2.10. -/
def faultStart : State := ((start.setA source).setIndex .i1 ⟨.pos, 62, 32⟩).setIndex .i2 ⟨.neg, 0, 1⟩

theorem test_fault_opcode :
    faults faultStart 0x00000140#31 .unimplementedOpcode = true ∧ faults faultStart 0x1F400147#31 .unimplementedOpcode = true ∧
    faults faultStart 0x1F400160#31 .unimplementedOpcode = true ∧ faults faultStart 0x7FFFFFFF#31 .unimplementedOpcode = true := by
  decide

theorem test_fault_selector :
    faults faultStart 0x1F407148#31 .invalidIndexSelector = true ∧ faults faultStart 0x1F43FFDF#31 .invalidIndexSelector = true := by
  decide

theorem test_fault_field :
    faults faultStart 0x1F400208#31 .invalidFieldSpec = true ∧ faults faultStart 0x1F400198#31 .invalidFieldSpec = true ∧
    faults faultStart 0x1F400B8F#31 .invalidFieldSpec = true ∧ faults faultStart 0x3FFC0FC8#31 .invalidFieldSpec = true := by
  decide

theorem test_fault_address :
    faults faultStart 0x3E800148#31 .addressOutOfRange = true ∧ faults faultStart 0x40040158#31 .addressOutOfRange = true ∧
    faults faultStart 0x00001148#31 .addressOutOfRange = true ∧ faults faultStart 0x00002158#31 .addressOutOfRange = true := by
  decide

/-- V-FT-15 and V-FT-16: the last address and a negative displacement are legal. -/
theorem test_no_fault_at_the_edge :
    after (faultStart.setMem 3999 sample) 0x40041148#31 .ok (fun t => decide (t.a = sample)) = true ∧
    after faultStart 0x1F442148#31 .ok (fun t => decide (t.a = sample)) = true := by
  decide

/-! ## Datapath functions -/

/-- V-UP-5, V-UP-7, V-UP-13, V-UP-21. -/
theorem test_unpack :
    unpack 11 = (1, 3) ∧ unpack 19 = (2, 3) ∧ unpack 8 = (1, 0) ∧ unpack 63 = (7, 7) ∧ pack 2 3 = 19 := by decide

/-- V-GF-2, V-GF-9, V-GF-16, V-GF-23, V-GF-25. -/
theorem test_getField :
    getField sample 0 1 = ⟨.neg, 0, 0, 0, 0, 1⟩ ∧ getField sample 1 3 = ⟨.pos, 0, 0, 1, 2, 3⟩ ∧
    getField sample 3 3 = ⟨.pos, 0, 0, 0, 0, 3⟩ ∧ getField ⟨.neg, 0, 0, 0, 0, 0⟩ 1 5 = ⟨.pos, 0, 0, 0, 0, 0⟩ ∧
    getField ⟨.neg, 63, 63, 63, 63, 63⟩ 5 5 = ⟨.pos, 0, 0, 0, 0, 63⟩ := by decide

/-- V-SF-2, V-SF-9, V-SF-21, V-SF-23, V-SF-26. -/
theorem test_setField :
    setField sample 0 1 source = ⟨.pos, 0, 2, 3, 4, 5⟩ ∧ setField sample 1 3 source = ⟨.neg, 8, 9, 0, 4, 5⟩ ∧
    setField sample 5 5 source = ⟨.neg, 1, 2, 3, 4, 0⟩ ∧
    setField ⟨.pos, 1, 1, 1, 1, 1⟩ 0 0 ⟨.neg, 0, 0, 0, 0, 0⟩ = ⟨.neg, 1, 1, 1, 1, 1⟩ ∧
    setField ⟨.pos, 1, 2, 3, 4, 5⟩ 3 3 ⟨.neg, 0, 0, 0, 7, 9⟩ = ⟨.pos, 1, 2, 9, 4, 5⟩ := by decide

/-- V-AC-1 to V-AC-9. -/
theorem test_address_codec :
    decodeSigned .pos [63, 63] = 4095 ∧ decodeSigned .neg [63, 63] = -4095 ∧ decodeSigned .neg [0, 32] = -32 ∧
    decodeSigned .pos [62, 31] = 3999 ∧ encodeSigned (-32) = some ⟨.neg, 0, 32⟩ ∧ encodeSigned 4096 = none := by decide

/-- V-EA-6 to V-EA-9: the exact sum. -/
theorem test_effective_address :
    effectiveAddress (operand .pos 63 63 1 0 5) (start.setIndex .i1 ⟨.neg, 1, 32⟩) = 3999 ∧
    effectiveAddress (operand .pos 63 63 1 0 5) (start.setIndex .i1 ⟨.pos, 63, 63⟩) = 8190 ∧
    effectiveAddress (operand .neg 63 63 3 0 5) (start.setIndex .i3 ⟨.neg, 63, 63⟩) = -8190 ∧
    effectiveAddress (operand .neg 63 63 3 0 5) (start.setIndex .i3 ⟨.pos, 63, 63⟩) = 0 := by decide

/-! ## Text (S-9, S-10) -/

theorem test_text_render :
    TextCodec.render ⟨.neg, 0, 32, 2, 11, 10⟩ = some "LD2 -32,2(1:3)".toList ∧
    TextCodec.render ⟨.neg, 0, 0, 0, 5, 16⟩ = some "LDAN -0".toList ∧
    TextCodec.renderPlain ⟨.neg, 0, 0, 0, 0, 0⟩ = "- 00 00 00 00 00".toList := by decide

theorem test_text_parse :
    TextCodec.parse "LD2 -32,2(1:3)".toList = .ok ⟨.neg, 0, 32, 2, 11, 10⟩ ∧
    TextCodec.parse "LDX 1000,3".toList = .ok ⟨.pos, 15, 40, 3, 5, 15⟩ := by decide

theorem test_text_refused :
    TextCodec.parse "ADD 1".toList = .error .unknownMnemonic ∧
    TextCodec.parse "LDA 1(3:2)".toList = .error .invalidFieldSpec ∧
    TextCodec.parse "LDA 1(0:6)".toList = .error .invalidFieldSpec ∧
    TextCodec.parse "LDA 4096".toList = .error .addressTooLarge ∧
    TextCodec.parse "LDA 1,7".toList = .error .indexTooLarge ∧
    TextCodec.parseSign ['x'] = .error .malformedSign := by decide

/-- R64: a sign token that is neither sign; D18: no `+`, and an address must be there. -/
theorem test_text_sign_refused :
    TextCodec.parse "LDA *5".toList = .error .malformedSign ∧
    TextCodec.parse "LDA +5".toList = .error .malformedLine ∧
    TextCodec.parse "LDA ".toList = .error .malformedLine ∧
    TextCodec.parse "LDA -".toList = .error .malformedLine ∧
    TextCodec.parse "LDA -0".toList = .ok ⟨.neg, 0, 0, 0, 5, 8⟩ := by decide

/-! ## The first instruction after reset -/

/-- Every opcode of the table with the other bits zero, placed by `withFetchWord`, runs and returns `OK`. -/
theorem test_every_opcode_runs_from_reset :
    (List.range' 8 24).all (fun c =>
      match step (State.reset.withFetchWord 31 c) with
      | .next t => decide (t.response = some (.status .ok)) && decide (t.pending = [])
      | .fault _ => false
      | .refused _ => false) = true := by decide

/-! ## Witnesses: states and operands that meet the hypotheses of the statements -/

/-- EncodeOfDecodeIsTheImage, InstructionFieldsAreImageSlices: an image that decodes, and the largest that does. -/
theorem witness_EncodeOfDecodeIsTheImage :
    decodeImage 0x408022C8#31 = .ok (.lda (operand .neg 0 32 2 1 3)) ∧
    decodeImage 0x7FFFFFDF#31 = .ok (.stx (operand .neg 63 63 63 7 7)) := by decide

theorem witness_InstructionFieldsAreImageSlices :
    decodeImage 8#31 = .ok (.lda (operand .pos 0 0 0 0 0)) ∧
    decodeImage 0x7FFFFFDF#31 = .ok (.stx (operand .neg 63 63 63 7 7)) := by decide

theorem witness_StateImagesArePacked :
    (issue start (.hostWrite .ci (.ci 0b11#2))).pending = .hostWrite .ci (.ci 0b11#2) :: [] := rfl

/-- Opcodes 0, 7, 32 and 63. -/
theorem witness_UnimplementedOpcodesOnlyFault :
    (issue start (.execute 0#31)).pending = .execute 0#31 :: [] ∧
    (0#31).toNat % 64 < 8 ∧ (7#31).toNat % 64 < 8 ∧ 31 < (32#31).toNat % 64 ∧ 31 < (63#31).toNat % 64 := by decide

/-- Opcodes 8 and 31, selectors 6 and 0, a valid field (5) and an invalid one (46). -/
theorem witness_TwentyOneFieldBytesAreValid :
    ((issue start (.execute 0x1F406148#31)).pending = .execute 0x1F406148#31 :: [] ∧
      8 ≤ (0x1F406148#31).toNat % 64 ∧ (0x1F406148#31).toNat % 64 ≤ 31 ∧ (0x1F406148#31).toNat / 2 ^ 12 % 64 ≤ 6) ∧
    ((issue start (.execute 0x1F400B9F#31)).pending = .execute 0x1F400B9F#31 :: [] ∧
      8 ≤ (0x1F400B9F#31).toNat % 64 ∧ (0x1F400B9F#31).toNat % 64 ≤ 31 ∧ (0x1F400B9F#31).toNat / 2 ^ 12 % 64 ≤ 6) ∧
    after start 0x1F406148#31 .ok (fun _ => true) = true ∧
    after start 0x1F400B9F#31 .invalidFieldSpec (fun _ => true) = true := by decide

theorem witness_StepRunsTheDecodedInstruction :
    (issue start (.execute 0x1F4000C8#31)).pending = .execute 0x1F4000C8#31 :: [] ∧
    decodeImage 0x1F4000C8#31 = .ok (.lda (operand .pos 31 16 0 0 3)) := by decide

/-- The first address that does not exist, and the last that does. -/
theorem witness_OnlyUnofferedTransactionsAreRefused :
    (issue start (.hostRead (.mem 4000))).pending = .hostRead (.mem 4000) :: [] ∧
    (Transaction.hostRead (.mem 4000)).offered = false ∧ (Transaction.hostRead (.mem 3999)).offered = true := by decide

theorem witness_OfferedRunsAlwaysComplete :
    ∀ t ∈ (start.setPending [.reset, .execute 0#31, .hostRead (.mem 3999), .hostWrite .ci (.ci 2#2)]).pending,
      t.offered = true := by decide

theorem witness_IdleBlockHoldsItsState : start.pending = [] := rfl

theorem witness_ResetTransactionRestoresResetValues :
    (issue (start.setA source) .reset).pending = .reset :: [] := rfl

/-- Each clause: every location, the addresses 0, 3999 and 4000. -/
theorem witness_HostReadReturnsTheLocation :
    (∀ loc ∈ [Location.a, .x, .index .i1, .index .i6, .ov, .ci, .mem 0, .mem 3999, .mem 4000],
      (issue start (.hostRead loc)).pending = .hostRead loc :: []) ∧ 0 ≤ 3999 ∧ 3999 ≤ 3999 ∧ 3999 < 4000 := by decide

/-- Offered and not offered, the addresses 3999 and 4000, the images `10` and `11` of `CI`, a value of another type. -/
theorem witness_HostWriteReplacesOneLocation :
    (∀ t ∈ [Transaction.hostWrite .a (.cell 0#31), .hostWrite (.index .i6) (.index 0x1FFF#13), .hostWrite .ov (.ov 1#1),
        .hostWrite .ci (.ci 2#2), .hostWrite (.mem 0) (.cell 1#31), .hostWrite (.mem 3999) (.cell 1#31)],
      t.offered = true ∧ (issue start t).pending = t :: []) ∧
    (∀ t ∈ [Transaction.hostWrite .a (.index 0#13), .hostWrite .ci (.ci 3#2), .hostWrite (.mem 4000) (.cell 1#31)],
      t.offered = false ∧ (issue start t).pending = t :: []) := by decide

theorem witness_StatusIsTheFirstFailingCheck :
    (issue faultStart (.execute 0x3FFC0FC8#31)).pending = .execute 0x3FFC0FC8#31 :: [] ∧
    imageStatusCode 0x3FFC0FC8#31 faultStart = 3 ∧ imageStatusCode 0x3E800148#31 faultStart = 4 ∧
    imageStatusCode 0x1F407148#31 faultStart = 2 ∧ imageStatusCode 0x7FFFFFFF#31 faultStart = 1 ∧
    imageStatusCode 0x1F442148#31 faultStart = 0 := by decide

/-- All four faults. -/
theorem witness_FaultLeavesTheStateUnchanged :
    (issue faultStart (.execute 0x40040158#31)).pending = .execute 0x40040158#31 :: [] ∧
    step (issue faultStart (.execute 0x40040158#31)) = .next (faultStart.raise .addressOutOfRange) ∧
    step (issue faultStart (.execute 0x1F400208#31)) = .next (faultStart.raise .invalidFieldSpec) ∧
    step (issue faultStart (.execute 0x1F407148#31)) = .next (faultStart.raise .invalidIndexSelector) ∧
    step (issue faultStart (.execute 0x00000140#31)) = .next (faultStart.raise .unimplementedOpcode) ∧
    (faultStart.raise .addressOutOfRange).response = some (.status .addressOutOfRange) ∧
    Status.addressOutOfRange ≠ .ok :=
  ⟨rfl, rfl, rfl, rfl, rfl, rfl, by decide⟩

/-- Twice the same faulting image. -/
def retryStart : State := faultStart.setPending [.execute 0x40040158#31, .execute 0x40040158#31]

theorem witness_RetriedFaultFaultsAgain :
    retryStart.pending = .execute 0x40040158#31 :: .execute 0x40040158#31 :: [] ∧
    step retryStart = .next ((issue faultStart (.execute 0x40040158#31)).raise .addressOutOfRange) ∧
    Status.addressOutOfRange ≠ .ok :=
  ⟨rfl, rfl, by decide⟩

/-- The six statements of the instructions' rules (`Load…`, `LoadNegative…`, `Store…RegistersFollowTheirRules`): each
fault clause and the completion at the ends of its range (selectors 6, 7, 63; fields 0:0, 5:5, 1:0, 0:6; addresses -1,
0, 3999, 4000). -/
theorem witness_InstructionRules :
    (6 < (operand .pos 0 0 7 0 5).index.toNat ∧ 6 < (operand .pos 0 0 63 7 7).index.toNat) ∧
    ((operand .pos 0 0 6 1 0).index.toNat ≤ 6 ∧ ¬ fieldValid (operand .pos 0 0 6 1 0) ∧
      ¬ fieldValid (operand .pos 0 0 0 0 6)) ∧
    ((operand .neg 0 1 0 0 5).index.toNat ≤ 6 ∧ fieldValid (operand .neg 0 1 0 0 5) ∧ ¬ addressInRange (operand .neg 0 1 0 0 5) start ∧
      ¬ addressInRange (operand .pos 62 32 0 0 5) start) ∧
    ((operand .pos 0 0 0 0 0).index.toNat ≤ 6 ∧ fieldValid (operand .pos 0 0 0 0 0) ∧
      addressInRange (operand .pos 0 0 0 0 0) start) ∧
    ((operand .pos 62 31 6 5 5).index.toNat ≤ 6 ∧ fieldValid (operand .pos 62 31 6 5 5) ∧
      addressInRange (operand .pos 62 31 6 5 5) start) := by
  unfold fieldValid addressInRange
  decide

/-- A load, a store and a fault. -/
theorem witness_EachOpcodeTouchesOnlyWhatItNames :
    exec (.lda (operand .pos 31 16 0 0 5)) start = .next (start.setA sample).complete ∧
    destination (.lda (operand .pos 31 16 0 0 5)) ≠ .x ∧ destination (.lda (operand .pos 31 16 0 0 5)) ≠ .memory ∧
    destination (.lda (operand .pos 31 16 0 0 5)) ≠ .index .i1 ∧
    exec (.stx (operand .pos 31 16 0 0 5)) start = .next (start.setMem 2000 plusZero).complete ∧
    destination (.stx (operand .pos 31 16 0 0 5)) ≠ .a ∧
    ((1999 : Nat) : Int) ≠ effectiveAddress (operand .pos 31 16 0 0 5) start ∧
    exec (.sta (operand .pos 31 16 7 0 5)) start = .next (start.raise .invalidIndexSelector) ∧
    (start.raise .invalidIndexSelector).response ≠ some (.status .ok) :=
  ⟨rfl, by decide, by decide, by decide, rfl, by decide, by decide, rfl, by decide⟩

/-- Both ways a flag can change. -/
theorem witness_FlagsAreStorageOnly :
    step (issue (start.setOv .on) .reset) = .next (performReset start) ∧ (performReset start).ov ≠ (start.setOv .on).ov ∧
    step (issue start (.hostWrite .ov (.ov 1#1))) = .next ((start.setOv .on).respond none) ∧
    ((start.setOv .on).respond none).ov ≠ start.ov ∧
    step (issue start (.hostWrite .ci (.ci 2#2))) = .next ((start.setCi .greater).respond none) ∧
    ((start.setCi .greater).respond none).ci ≠ start.ci ∧ (performReset start).ci ≠ (start.setCi .less).ci :=
  ⟨rfl, by decide, rfl, by decide, rfl, by decide, by decide⟩

theorem witness_AccumulatorAccess :
    step (issue start (.execute 0x1F400148#31)) = .next (start.setA sample).complete ∧
    (start.setA sample).complete.a ≠ (issue start (.execute 0x1F400148#31)).a ∧
    Instr.opcode (.ldx (operand .pos 0 0 0 0 5)) ≠ 8#6 ∧ Instr.opcode (.ldx (operand .pos 0 0 0 0 5)) ≠ 16#6 ∧
    Instr.opcode (.ldx (operand .pos 0 0 0 0 5)) ≠ 24#6 ∧
    Instr.opcode (.lda (operand .pos 31 16 0 0 5)) = 8#6 ∧ Instr.opcode (.ldan (operand .pos 31 16 0 0 5)) = 16#6 ∧
    exec (.lda (operand .pos 31 16 0 0 5)) start = .next (start.setA sample).complete ∧
    exec (.ldan (operand .pos 31 16 0 0 5)) start = .next (start.setA sample.flipSign).complete ∧
    (start.setA sample).complete.response = some (.status .ok) :=
  ⟨rfl, by decide, by decide, by decide, by decide, rfl, rfl, rfl, rfl, rfl⟩

theorem witness_ExtensionAccess :
    step (issue start (.execute 0x1F40014F#31)) = .next (start.setX sample).complete ∧
    (start.setX sample).complete.x ≠ (issue start (.execute 0x1F40014F#31)).x ∧
    Instr.opcode (.lda (operand .pos 0 0 0 0 5)) ≠ 15#6 ∧ Instr.opcode (.lda (operand .pos 0 0 0 0 5)) ≠ 23#6 ∧
    Instr.opcode (.lda (operand .pos 0 0 0 0 5)) ≠ 31#6 ∧
    Instr.opcode (.ldx (operand .pos 31 16 0 0 5)) = 15#6 ∧ Instr.opcode (.ldxn (operand .pos 31 16 0 0 5)) = 23#6 ∧
    Instr.opcode (.stx (operand .pos 31 16 0 0 5)) = 31#6 ∧
    exec (.ldx (operand .pos 31 16 0 0 5)) start = .next (start.setX sample).complete ∧
    exec (.ldxn (operand .pos 31 16 0 0 5)) start = .next (start.setX sample.flipSign).complete ∧
    (start.setX sample).complete.response = some (.status .ok) :=
  ⟨rfl, by decide, by decide, by decide, by decide, rfl, rfl, rfl, rfl, rfl, rfl⟩

/-- For `I6`: a load that changes it, an instruction that does not name it, and a load of it indexed by another. -/
theorem witness_IndexRegisterAccess :
    step (issue start (.execute 0x1F40014E#31)) = .next (start.setIndex .i6 ⟨.neg, 4, 5⟩).complete ∧
    (start.setIndex .i6 ⟨.neg, 4, 5⟩).complete.readIndex .i6 ≠ (issue start (.execute 0x1F40014E#31)).readIndex .i6 ∧
    (operand .pos 31 16 5 0 5).index.toNat ≠ regNumber .i6 ∧
    (Instr.opcode (.ld5 (operand .pos 31 16 5 0 5))).toNat ≠ 8 + regNumber .i6 ∧
    (Instr.opcode (.ld5 (operand .pos 31 16 5 0 5))).toNat ≠ 16 + regNumber .i6 ∧
    (Instr.opcode (.ld5 (operand .pos 31 16 5 0 5))).toNat ≠ 24 + regNumber .i6 ∧
    (Instr.opcode (.ld6 (operand .pos 31 16 5 0 5))).toNat = 8 + regNumber .i6 ∧
    (Instr.opcode (.ld6n (operand .pos 31 16 5 0 5))).toNat = 16 + regNumber .i6 ∧
    exec (.ld6 (operand .pos 31 16 5 0 5)) start = .next (start.setIndex .i6 ⟨.neg, 4, 5⟩).complete ∧
    exec (.ld6n (operand .pos 31 16 5 0 5)) start = .next (start.setIndex .i6 ⟨.pos, 4, 5⟩).complete ∧
    (start.setIndex .i6 ⟨.neg, 4, 5⟩).complete.response = some (.status .ok) :=
  ⟨rfl, by decide, by decide, by decide, by decide, by decide, by decide, by decide, rfl, rfl, rfl⟩

theorem witness_MemoryChangesOnlyByStoreOrHost :
    step (issue (start.setA source) (.execute 0x1F400158#31)) = .next ((start.setA source).setMem 2000 source).complete ∧
    ((start.setA source).setMem 2000 source).complete.mem.read 2000 ≠ (start.setA source).mem.read 2000 :=
  ⟨rfl, by decide⟩

/-- A state with memory listed that has the invariant, and a step of it that writes memory. -/
theorem witness_StepKeepsMemoryCanonical :
    (issue (start.setA source) (.execute 0x1F400158#31)).Inv ∧
    step (issue (start.setA source) (.execute 0x1F400158#31)) = .next ((start.setA source).setMem 2000 source).complete :=
  ⟨by unfold State.Inv; decide, rfl⟩

theorem witness_ReadReturnsTheLatestWrite : ∀ p ∈ start.mem.cells, p.1 ≠ 1999 := by decide

theorem witness_EqualMemoriesAreEqualData :
    start.mem.wf ∧ (start.mem.write 2000 sample).wf ∧ start.mem.epoch = (start.mem.write 2000 sample).epoch ∧
    ∀ a, start.mem.lookup a = (start.mem.write 2000 sample).lookup a :=
  ⟨by decide, by decide, rfl, fun _ => rfl⟩

/-- GetFieldSelectsRightJustified, SetFieldReplacesOnlyTheField, FieldUnitLaws: the fields 0:0, 0:5, 1:3 and 5:5, a
zeroed and a copied byte, a written and a kept byte. -/
theorem witness_FieldUnit :
    (0 ≤ 0 ∧ 0 ≤ 5 ∧ 1 ≤ 3 ∧ 5 ≤ 5) ∧ 4 + (fieldRange 0 0).n < 5 ∧ 1 + (fieldRange 1 3).n < 5 ∧ 2 < (fieldRange 1 3).n ∧
    2 + max 1 1 ≤ 3 ∧ (3 < 5 ∧ 3 ≤ 3) ∧ (0 < 5 ∧ 0 + 1 < max 2 1) := by decide

/-- EncodeSignedGivesSignAndDigits and AddressCodecRoundTrips: both ends of the range and just outside. -/
theorem witness_EncodeSigned :
    ((-4095 : Int) ≤ -4095 ∧ (-4095 : Int) ≤ 4095 ∧ (4095 : Int) ≤ 4095) ∧ (-4096 : Int) < -4095 ∧ (4095 : Int) < 4096 ∧
    encodeSigned (-4095) = some ⟨.neg, 63, 63⟩ ∧ encodeSigned 4095 = some ⟨.pos, 63, 63⟩ := by decide

/-- DecodeIsPositional: one byte is a sequence of bytes. -/
theorem witness_DecodeIsPositional : ([63#6] : List Byte) ≠ [] := by decide

/-- Selectors 0 and 6, the addresses -1, 0, 3999 and 4000, a cell that is not the addressed one, and the register of
the fixture. -/
theorem witness_EffectiveAddressIsTheExactSum :
    ((operand .neg 0 1 0 0 5).index.toNat ≤ 6 ∧ fieldValid (operand .neg 0 1 0 0 5) ∧
      ¬ addressInRange (operand .neg 0 1 0 0 5) start ∧ ¬ addressInRange (operand .pos 62 32 6 0 5) start) ∧
    ((operand .pos 62 31 6 5 5).index.toNat ≤ 6 ∧ fieldValid (operand .pos 62 31 6 5 5) ∧
      addressInRange (operand .pos 62 31 6 5 5) start ∧ addressInRange (operand .neg 0 0 6 5 5) start ∧
      ((3998 : Nat) : Int) ≠ effectiveAddress (operand .pos 62 31 6 5 5) start) ∧
    (start.setIndex .i2 ⟨.pos, 0, 63⟩).i2 = ⟨.pos, 0#6, 63#6⟩ := by
  unfold fieldValid addressInRange
  decide

/-- Selectors 0 and 6, addresses 0 and 3999. -/
theorem witness_LoadAfterStoreReturnsTheStoredField :
    ((operand .neg 0 0 0 0 0).index.toNat ≤ 6 ∧ fieldValid (operand .neg 0 0 0 0 0) ∧
      addressInRange (operand .neg 0 0 0 0 0) start) ∧
    ((operand .pos 62 31 6 2 3).index.toNat ≤ 6 ∧ fieldValid (operand .pos 62 31 6 2 3) ∧
      addressInRange (operand .pos 62 31 6 2 3) start) := by
  unfold fieldValid addressInRange
  decide

/-- `I6` holding 10, address 1990. -/
theorem witness_IndexedAccessUsesTheOldIndex :
    (operand .pos 31 6 6 0 5).index.toNat = regNumber .i6 ∧ fieldValid (operand .pos 31 6 6 0 5) ∧
    (2000 : Int) = signedPair .pos 31#6 6#6 + signedPair ((start.setIndex .i6 ⟨.pos, 0, 10⟩).readIndex .i6).sign
      ((start.setIndex .i6 ⟨.pos, 0, 10⟩).readIndex .i6).b0 ((start.setIndex .i6 ⟨.pos, 0, 10⟩).readIndex .i6).b1 ∧
    (0 : Int) ≤ 2000 ∧ (2000 : Int) ≤ 3999 := by
  unfold fieldValid
  decide

/-- A store and then a `HostRead` of the cell it stores to. -/
def hostReadStart (i : Instr) : State :=
  start.setPending [.execute (encodeImage i), .hostRead (.mem 2000)]

/-- A store of each kind of register. -/
theorem witness_HostReadSeesTheStore :
    (operand .pos 31 16 6 2 3).index.toNat ≤ 6 ∧ fieldValid (operand .pos 31 16 6 2 3) ∧
    ∀ mk ∈ [Instr.sta, .stx, storeIndex .i1, storeIndex .i6],
      addressInRange (operand .pos 31 16 6 2 3) (hostReadStart (mk (operand .pos 31 16 6 2 3))) ∧
      (hostReadStart (mk (operand .pos 31 16 6 2 3))).pending =
        .execute (encodeImage (mk (operand .pos 31 16 6 2 3))) :: .hostRead (.mem (effectiveAddress
          (operand .pos 31 16 6 2 3) (hostReadStart (mk (operand .pos 31 16 6 2 3)))).toNat) :: [] := by
  unfold fieldValid addressInRange
  decide

theorem witness_ParsingInvertsRendering :
    Instr.wellFormed (.lda (operand .neg 0 0 0 0 5)) = true ∧ Instr.wellFormed (.stx (operand .pos 63 63 6 5 5)) = true := by
  decide

end Sys2Proof.Tests
end

/-! # Proofs: the architectural state (spec 10_state.md)

The plan: an instruction that completes writes one cell to its destination (`actAt_eq_put`), so a register is kept by
every instruction with another destination, and a change of a register passes through every instruction that neither
reads nor writes it (`exec_commutes`). The host's side is one inversion of `step`, stated for a value that belongs to
one location (`Observes.step_cases`). -/

namespace Sys2Proof.Machine

/-! ## What an instruction writes, and where -/

/-- The cell an instruction writes when all its checks pass: the fetched field, its negative, or the merged cell. -/
def writtenCell (i : Instr) (s : State) (addr : Nat) : Cell :=
  match i with
  | .lda o | .ld1 o | .ld2 o | .ld3 o | .ld4 o | .ld5 o | .ld6 o | .ldx o => fetchField o addr s
  | .ldan o | .ld1n o | .ld2n o | .ld3n o | .ld4n o | .ld5n o | .ld6n o | .ldxn o => (fetchField o addr s).flipSign
  | .sta o => mergeField o addr s.a s
  | .st1 o => mergeField o addr (indexToCell (s.readIndex .i1)) s
  | .st2 o => mergeField o addr (indexToCell (s.readIndex .i2)) s
  | .st3 o => mergeField o addr (indexToCell (s.readIndex .i3)) s
  | .st4 o => mergeField o addr (indexToCell (s.readIndex .i4)) s
  | .st5 o => mergeField o addr (indexToCell (s.readIndex .i5)) s
  | .st6 o => mergeField o addr (indexToCell (s.readIndex .i6)) s
  | .stx o => mergeField o addr s.x s

/-- Put a cell into a destination, the memory cell being the one at `addr`. -/
def Destination.put (d : Destination) (addr : Nat) (s : State) (c : Cell) : State :=
  match d with
  | .a => s.setA c
  | .x => s.setX c
  | .index r => s.setIndex r (cellToIndex c)
  | .memory => s.setMem addr c

/-- Every act puts the written cell into the instruction's destination. -/
theorem actAt_eq_put (i : Instr) (s : State) (addr : Nat) :
    actAt i s addr = (destination i).put addr s (writtenCell i s addr) := by
  cases i <;> rfl

theorem Destination.put_a_of_ne {d : Destination} (h : d ≠ .a) (addr : Nat) (s : State) (c : Cell) :
    (d.put addr s c).a = s.a := by
  cases d with
  | a => exact absurd rfl h
  | x | memory => rfl
  | index q => exact State.setIndex_a s q _

theorem Destination.put_x_of_ne {d : Destination} (h : d ≠ .x) (addr : Nat) (s : State) (c : Cell) :
    (d.put addr s c).x = s.x := by
  cases d with
  | x => exact absurd rfl h
  | a | memory => rfl
  | index q => exact State.setIndex_x s q _

theorem Destination.put_readIndex_of_ne {d : Destination} {r : IndexReg} (h : d ≠ .index r) (addr : Nat) (s : State)
    (c : Cell) : (d.put addr s c).readIndex r = s.readIndex r := by
  cases d with
  | index q => exact State.readIndex_setIndex_other s q r _ fun hr => h (by rw [hr])
  | a => exact State.setA_readIndex s c r
  | x => exact State.setX_readIndex s c r
  | memory => exact State.setMem_readIndex s addr c r

theorem destination_eq_a_iff (i : Instr) : destination i = .a ↔ i.opcode = 8#6 ∨ i.opcode = 16#6 := by
  cases i <;> simp [destination, Instr.opcode]

theorem destination_eq_x_iff (i : Instr) : destination i = .x ↔ i.opcode = 15#6 ∨ i.opcode = 23#6 := by
  cases i <;> simp [destination, Instr.opcode]

theorem destination_eq_index_iff (i : Instr) (r : IndexReg) :
    destination i = .index r ↔ i.opcode.toNat = 8 + regNumber r ∨ i.opcode.toNat = 16 + regNumber r := by
  cases r <;> cases i <;> simp [destination, Instr.opcode, regNumber]

/-! ## A change of one register, before or after an instruction -/

theorem State.setIndex_comm (s : State) {r q : IndexReg} (h : q ≠ r) (v w : IndexCell) :
    (s.setIndex r v).setIndex q w = (s.setIndex q w).setIndex r v := by
  cases r <;> cases q <;> simp [State.setIndex] at h ⊢

theorem State.setIndex_setIndex_same (s : State) (r : IndexReg) (v w : IndexCell) :
    (s.setIndex r v).setIndex r w = s.setIndex r w := by
  cases r <;> rfl

theorem Destination.put_setA {d : Destination} (h : d ≠ .a) (addr : Nat) (s : State) (v c : Cell) :
    d.put addr (s.setA v) c = (d.put addr s c).setA v := by
  cases d with
  | a => exact absurd rfl h
  | x | memory => rfl
  | index q => cases q <;> rfl

theorem Destination.put_setX {d : Destination} (h : d ≠ .x) (addr : Nat) (s : State) (v c : Cell) :
    d.put addr (s.setX v) c = (d.put addr s c).setX v := by
  cases d with
  | x => exact absurd rfl h
  | a | memory => rfl
  | index q => cases q <;> rfl

theorem Destination.put_setIndex {d : Destination} {r : IndexReg} (h : d ≠ .index r) (addr : Nat) (s : State)
    (v : IndexCell) (c : Cell) : d.put addr (s.setIndex r v) c = (d.put addr s c).setIndex r v := by
  cases d with
  | index q => exact State.setIndex_comm s (fun hq => h (by rw [hq])) v _
  | a | x | memory => cases r <;> rfl

/-- Only `STA` reads the accumulator. -/
theorem writtenCell_setA {i : Instr} (h : i.opcode ≠ 24#6) (s : State) (v : Cell) (addr : Nat) :
    writtenCell i (s.setA v) addr = writtenCell i s addr := by
  cases i
  case sta => exact absurd rfl h
  all_goals rfl

/-- Only `STX` reads the extension. -/
theorem writtenCell_setX {i : Instr} (h : i.opcode ≠ 31#6) (s : State) (v : Cell) (addr : Nat) :
    writtenCell i (s.setX v) addr = writtenCell i s addr := by
  cases i
  case stx => exact absurd rfl h
  all_goals rfl

@[simp] theorem fetchField_setIndex (o : Operand) (addr : Nat) (s : State) (r : IndexReg) (v : IndexCell) :
    fetchField o addr (s.setIndex r v) = fetchField o addr s := by
  simp [fetchField]

@[simp] theorem mergeField_setIndex (o : Operand) (addr : Nat) (c : Cell) (s : State) (r : IndexReg) (v : IndexCell) :
    mergeField o addr c (s.setIndex r v) = mergeField o addr c s := by
  simp [mergeField]

/-- Of the data an instruction writes, only that of opcode `24+k` comes from index register `k`. -/
theorem writtenCell_setIndex {i : Instr} {r : IndexReg} (h : i.opcode.toNat ≠ 24 + regNumber r) (s : State)
    (v : IndexCell) (addr : Nat) : writtenCell i (s.setIndex r v) addr = writtenCell i s addr := by
  have source_kept (q : IndexReg) (hq : i.opcode.toNat = 24 + regNumber q) :
      (s.setIndex r v).readIndex q = s.readIndex q :=
    State.readIndex_setIndex_other s r q v fun hqr => h (hqr ▸ hq)
  cases i
  case st1 | st2 | st3 | st4 | st5 | st6 =>
    simp only [writtenCell, mergeField_setIndex]
    rw [source_kept]
    rfl
  all_goals simp [writtenCell]

/-! ## What an address depends on -/

@[simp] theorem effectiveAddress_setA (o : Operand) (s : State) (v : Cell) :
    effectiveAddress o (s.setA v) = effectiveAddress o s :=
  effectiveAddress_congr fun r _ => State.setA_readIndex s v r

@[simp] theorem effectiveAddress_setX (o : Operand) (s : State) (v : Cell) :
    effectiveAddress o (s.setX v) = effectiveAddress o s :=
  effectiveAddress_congr fun r _ => State.setX_readIndex s v r

theorem effectiveAddress_setFlags (o : Operand) (s : State) (v : Overflow) (c : Comparison) :
    effectiveAddress o ((s.setOv v).setCi c) = effectiveAddress o s :=
  effectiveAddress_congr fun r _ => by simp

/-- The register a selector names has the selector's number. -/
theorem toNat_eq_of_selectIndex {b : Byte} {r : IndexReg} (h : selectIndex b = some r) : b.toNat = regNumber r := by
  unfold selectIndex at h
  split at h <;> cases h <;> assumption

theorem effectiveAddress_setIndex {o : Operand} {r : IndexReg} (h : o.index.toNat ≠ regNumber r) (s : State)
    (v : IndexCell) : effectiveAddress o (s.setIndex r v) = effectiveAddress o s :=
  effectiveAddress_congr fun q hq =>
    State.readIndex_setIndex_other s r q v fun hqr => h (hqr ▸ toNat_eq_of_selectIndex hq)

/-! ## Noninterference, for any change of the state -/

/-- A change of the state passes through an instruction when neither its address nor its act depends on it. -/
theorem exec_commutes {i : Instr} {s : State} (change : State → State)
    (hrespond : ∀ t p, change (State.respond t p) = (change t).respond p)
    (haddress : effectiveAddress i.operand (change s) = effectiveAddress i.operand s)
    (hact : ∀ addr, actAt i (change s) addr = change (actAt i s addr)) :
    exec i (change s) = mapNext change (exec i s) := by
  have hresolve := resolve_congr haddress
  rw [exec_eq i (change s)]
  obtain ⟨e, he, hexec⟩ | ⟨addr, haddr, hexec⟩ := exec_cases i s
  · rw [atAddress_of_error _ (hresolve.trans he), hexec]
    exact congrArg _ (hrespond s _).symm
  · rw [atAddress_of_ok _ (hresolve.trans haddr), hexec, hact]
    exact congrArg _ (hrespond _ _).symm

/-- A change of the state is lost when an instruction that completes with `OK` overwrites what was changed. -/
theorem exec_overwrites {i : Instr} {s t : State} (change : State → State)
    (haddress : effectiveAddress i.operand (change s) = effectiveAddress i.operand s)
    (hact : ∀ addr, actAt i (change s) addr = actAt i s addr)
    (h : exec i s = .next t) (hok : t.response = some (.status .ok)) : exec i (change s) = .next t := by
  obtain ⟨e, he, hexec⟩ | ⟨addr, haddr, hexec⟩ := exec_cases i s
  · rw [hexec] at h
    cases h
    exact absurd (by simpa using hok) (resolve_error_ne_ok he)
  · rw [exec_eq, atAddress_of_ok _ ((resolve_congr haddress).trans haddr), hact, ← hexec, h]

theorem exec_setA {i : Instr} (hload : destination i ≠ .a) (hstore : i.opcode ≠ 24#6) (s : State) (v : Cell) :
    exec i (s.setA v) = mapNext (fun t => t.setA v) (exec i s) :=
  exec_commutes (fun t => t.setA v) (fun _ _ => rfl) (effectiveAddress_setA i.operand s v) fun addr => by
    rw [actAt_eq_put, actAt_eq_put, writtenCell_setA hstore, Destination.put_setA hload]

theorem exec_setX {i : Instr} (hload : destination i ≠ .x) (hstore : i.opcode ≠ 31#6) (s : State) (v : Cell) :
    exec i (s.setX v) = mapNext (fun t => t.setX v) (exec i s) :=
  exec_commutes (fun t => t.setX v) (fun _ _ => rfl) (effectiveAddress_setX i.operand s v) fun addr => by
    rw [actAt_eq_put, actAt_eq_put, writtenCell_setX hstore, Destination.put_setX hload]

theorem exec_setIndex {i : Instr} {r : IndexReg} (hselector : i.operand.index.toNat ≠ regNumber r)
    (hload : destination i ≠ .index r) (hstore : i.opcode.toNat ≠ 24 + regNumber r) (s : State) (v : IndexCell) :
    exec i (s.setIndex r v) = mapNext (fun t => t.setIndex r v) (exec i s) :=
  exec_commutes (fun t => t.setIndex r v) (fun _ _ => by cases r <;> rfl) (effectiveAddress_setIndex hselector s v)
    fun addr => by rw [actAt_eq_put, actAt_eq_put, writtenCell_setIndex hstore, Destination.put_setIndex hload]

theorem exec_setFlags (i : Instr) (s : State) (v : Overflow) (c : Comparison) :
    exec i ((s.setOv v).setCi c) = mapNext (fun t => (t.setOv v).setCi c) (exec i s) :=
  exec_commutes (fun t => (t.setOv v).setCi c) (fun _ _ => rfl) (effectiveAddress_setFlags i.operand s v c)
    fun addr => by cases i <;> rfl

/-- A load of the accumulator replaces it whole. -/
theorem exec_setA_of_load {i : Instr} {s t : State} (v : Cell) (hload : destination i = .a) (h : exec i s = .next t)
    (hok : t.response = some (.status .ok)) : exec i (s.setA v) = .next t := by
  have hstore : i.opcode ≠ 24#6 := by
    obtain h8 | h16 := (destination_eq_a_iff i).mp hload
    · simp [h8]
    · simp [h16]
  refine exec_overwrites (fun s => s.setA v) (effectiveAddress_setA i.operand s v) (fun addr => ?_) h hok
  rw [actAt_eq_put, actAt_eq_put, writtenCell_setA hstore, hload]
  rfl

/-- A load of the extension replaces it whole. -/
theorem exec_setX_of_load {i : Instr} {s t : State} (v : Cell) (hload : destination i = .x) (h : exec i s = .next t)
    (hok : t.response = some (.status .ok)) : exec i (s.setX v) = .next t := by
  have hstore : i.opcode ≠ 31#6 := by
    obtain h15 | h23 := (destination_eq_x_iff i).mp hload
    · simp [h15]
    · simp [h23]
  refine exec_overwrites (fun s => s.setX v) (effectiveAddress_setX i.operand s v) (fun addr => ?_) h hok
  rw [actAt_eq_put, actAt_eq_put, writtenCell_setX hstore, hload]
  rfl

/-- A load of an index register that is not indexed by it replaces it whole. -/
theorem exec_setIndex_of_load {i : Instr} {r : IndexReg} {s t : State} (v : IndexCell)
    (hselector : i.operand.index.toNat ≠ regNumber r) (hload : destination i = .index r) (h : exec i s = .next t)
    (hok : t.response = some (.status .ok)) : exec i (s.setIndex r v) = .next t := by
  have hstore : i.opcode.toNat ≠ 24 + regNumber r := by
    have hop := (destination_eq_index_iff i r).mp hload
    omega
  refine exec_overwrites (fun s => s.setIndex r v) (effectiveAddress_setIndex hselector s v) (fun addr => ?_) h hok
  rw [actAt_eq_put, actAt_eq_put, writtenCell_setIndex hstore, hload]
  exact State.setIndex_setIndex_same s r v _

/-! ## The opcode in an image -/

theorem opcode_of_decode {c : Cell} {i : Instr} (h : decode c = .ok i) : i.opcode = c.b4 := by
  unfold decode at h
  split at h <;> cases h <;> exact BitVec.eq_of_toNat_eq (Eq.symm ‹_›)

theorem opcode_of_decodeImage {w : CellImage} {i : Instr} (h : decodeImage w = .ok i) :
    i.opcode.toNat = w.toNat % 64 := by
  rw [opcode_of_decode h]
  simp [Cell.ofImage]

/-! ## What a step can change -/

/-- A `HostWrite` that is not refused gives a value of the location's type and replaces that one location. -/
theorem writeLocation_cases {s s' : State} {loc : Location} {v : PortValue} (h : writeLocation s loc v = .ok s') :
    (∃ w, loc = .a ∧ v = .cell w ∧ s' = s.setA (Cell.ofImage w)) ∨
    (∃ w, loc = .x ∧ v = .cell w ∧ s' = s.setX (Cell.ofImage w)) ∨
    (∃ r w, loc = .index r ∧ v = .index w ∧ s' = s.setIndex r (IndexCell.ofImage w)) ∨
    (∃ w, loc = .ov ∧ v = .ov w ∧ s' = s.setOv (Overflow.ofImage w)) ∨
    (∃ w c, loc = .ci ∧ v = .ci w ∧ Comparison.ofImage w = some c ∧ s' = s.setCi c) ∨
    (∃ addr w, loc = .mem addr ∧ v = .cell w ∧ addr < Config.memCells ∧ s' = s.setMem addr (Cell.ofImage w)) := by
  unfold writeLocation at h
  split at h
  case h_1 => cases h; exact .inl ⟨_, rfl, rfl, rfl⟩
  case h_2 => cases h; exact .inr (.inl ⟨_, rfl, rfl, rfl⟩)
  case h_3 => cases h; exact .inr (.inr (.inl ⟨_, _, rfl, rfl, rfl⟩))
  case h_4 => cases h; exact .inr (.inr (.inr (.inl ⟨_, rfl, rfl, rfl⟩)))
  case h_5 =>
    split at h <;> cases h
    next hc => exact .inr (.inr (.inr (.inr (.inl ⟨_, _, rfl, rfl, hc, rfl⟩))))
  case h_6 =>
    split at h <;> cases h
    next haddr => exact .inr (.inr (.inr (.inr (.inr ⟨_, _, rfl, rfl, haddr, rfl⟩))))
  case h_7 => cases h

/-- A `HostWrite` keeps every register and flag but the one it names. -/
theorem writeLocation_frame {s s' : State} {loc : Location} {v : PortValue} (h : writeLocation s loc v = .ok s') :
    (loc ≠ .a → s'.a = s.a) ∧ (loc ≠ .x → s'.x = s.x) ∧
    (∀ r, loc ≠ .index r → s'.readIndex r = s.readIndex r) ∧
    (loc ≠ .ov → s'.ov = s.ov) ∧ (loc ≠ .ci → s'.ci = s.ci) := by
  obtain ⟨w, rfl, -, rfl⟩ | ⟨w, rfl, -, rfl⟩ | ⟨q, w, rfl, -, rfl⟩ | ⟨w, rfl, -, rfl⟩ | ⟨w, c, rfl, -, -, rfl⟩ |
    ⟨addr, w, rfl, -, -, rfl⟩ := writeLocation_cases h
  case inr.inr.inl =>
    have hother (r : IndexReg) (hr : Location.index q ≠ .index r) :
        (s.setIndex q (IndexCell.ofImage w)).readIndex r = s.readIndex r :=
      State.readIndex_setIndex_other s q r _ fun hrq => hr (by rw [hrq])
    simpa using hother
  all_goals simp

/-- `get` is a value of the state that belongs to the location `loc`: the two sides of the host interface are no part of
it, and writing any other location keeps it. -/
structure Observes {α : Type} (get : State → α) (loc : Location) : Prop where
  respond (s : State) (p : Option Response) : get (s.respond p) = get s
  setPending (s : State) (ts : List Transaction) : get (s.setPending ts) = get s
  write {s s' : State} {other : Location} {v : PortValue} (h : writeLocation s other v = .ok s') (hne : other ≠ loc) :
    get s' = get s

theorem observes_a : Observes State.a .a :=
  ⟨fun _ _ => rfl, fun _ _ => rfl, fun h => let ⟨ha, _⟩ := writeLocation_frame h; ha⟩

theorem observes_x : Observes State.x .x :=
  ⟨fun _ _ => rfl, fun _ _ => rfl, fun h => let ⟨_, hx, _⟩ := writeLocation_frame h; hx⟩

theorem observes_readIndex (r : IndexReg) : Observes (fun s => s.readIndex r) (.index r) :=
  ⟨fun s p => State.respond_readIndex s p r, fun s ts => State.setPending_readIndex s ts r,
    fun h => let ⟨_, _, hindex, _⟩ := writeLocation_frame h; hindex r⟩

theorem observes_ov : Observes State.ov .ov :=
  ⟨fun _ _ => rfl, fun _ _ => rfl, fun h => let ⟨_, _, _, hov, _⟩ := writeLocation_frame h; hov⟩

theorem observes_ci : Observes State.ci .ci :=
  ⟨fun _ _ => rfl, fun _ _ => rfl, fun h => let ⟨_, _, _, _, hci⟩ := writeLocation_frame h; hci⟩

/-- An instruction keeps a value that its act keeps. -/
theorem Observes.exec_keeps {α : Type} {get : State → α} {loc : Location} (ho : Observes get loc) {i : Instr}
    {s t : State} (h : exec i s = .next t) (hact : ∀ addr, get (actAt i s addr) = get s) : get t = get s := by
  obtain ⟨e, -, hexec⟩ | ⟨addr, -, hexec⟩ := exec_cases i s <;> rw [hexec] at h <;> cases h
  · exact ho.respond s _
  · exact (ho.respond _ _).trans (hact addr)

/-- What changes a value that belongs to one location: `Reset`, `HostWrite` of that location, or an instruction. -/
theorem Observes.step_cases {α : Type} {get : State → α} {loc : Location} (ho : Observes get loc) {s t : State}
    (h : step s = .next t) (hne : get t ≠ get s) :
    ∃ rest, s.pending = .reset :: rest ∨ (∃ v, s.pending = .hostWrite loc v :: rest) ∨
      ∃ w i, s.pending = .execute w :: rest ∧ decodeImage w = .ok i ∧ exec i (s.setPending rest) = .next t := by
  cases hp : s.pending with
  | nil =>
    cases (step_idle hp).symm.trans h
    exact absurd (ho.respond s none) hne
  | cons tr rest =>
    have hperform : perform tr (s.setPending rest) = .next t := (step_pending hp).symm.trans h
    refine ⟨rest, ?_⟩
    cases tr with
    | reset => exact .inl rfl
    | execute w =>
      cases hd : decodeImage w with
      | ok i => exact .inr (.inr ⟨w, i, rfl, hd, (perform_execute_ok _ hd).symm.trans hperform⟩)
      | error r =>
        cases (perform_execute_error _ hd).symm.trans hperform
        exact absurd ((ho.respond _ _).trans (ho.setPending s rest)) hne
    | hostRead l =>
      simp only [perform, performRead] at hperform
      split at hperform <;> cases hperform
      exact absurd ((ho.respond _ _).trans (ho.setPending s rest)) hne
    | hostWrite l v =>
      simp only [perform, performWrite] at hperform
      split at hperform <;> cases hperform
      next s' hwrite =>
        by_cases hl : l = loc
        · exact .inr (.inl ⟨v, by rw [hl]⟩)
        · exact absurd (((ho.respond _ _).trans (ho.write hwrite hl)).trans (ho.setPending s rest)) hne

/-- A value that no instruction's act changes is changed by `Reset` and `HostWrite` only. -/
theorem Observes.step_changes_of_host {α : Type} {get : State → α} {loc : Location} (ho : Observes get loc)
    (hact : ∀ i s addr, get (actAt i s addr) = get s) {s t : State} (h : step s = .next t) (hne : get t ≠ get s) :
    ∃ rest, s.pending = .reset :: rest ∨ ∃ v, s.pending = .hostWrite loc v :: rest := by
  obtain ⟨rest, hreset | hwrite | ⟨w, i, -, -, hexec⟩⟩ := ho.step_cases h hne
  · exact ⟨rest, .inl hreset⟩
  · exact ⟨rest, .inr hwrite⟩
  · exact absurd ((ho.exec_keeps hexec fun addr => hact i _ addr).trans (ho.setPending s rest)) hne

/-- A register that only the instructions with destination `d` write is changed by `Reset`, by `HostWrite` and by an
opcode with that destination only. -/
theorem Observes.step_changes {α : Type} {get : State → α} {loc : Location} (ho : Observes get loc) {d : Destination}
    {isOpcode : Nat → Prop} (hput : ∀ {e : Destination}, e ≠ d → ∀ addr s c, get (e.put addr s c) = get s)
    (hopcode : ∀ i, destination i = d → isOpcode i.opcode.toNat)
    {s t : State} (h : step s = .next t) (hne : get t ≠ get s) :
    ∃ rest, s.pending = .reset :: rest ∨ (∃ v, s.pending = .hostWrite loc v :: rest) ∨
      ∃ w, s.pending = .execute w :: rest ∧ isOpcode (w.toNat % 64) := by
  obtain ⟨rest, hreset | hwrite | ⟨w, i, hp, hd, hexec⟩⟩ := ho.step_cases h hne
  · exact ⟨rest, .inl hreset⟩
  · exact ⟨rest, .inr (.inl hwrite)⟩
  · have hdest : destination i = d := by
      by_contra hdest
      have hkeep : get t = get (s.setPending rest) :=
        ho.exec_keeps hexec fun addr => by rw [actAt_eq_put]; exact hput hdest addr _ _
      exact hne (hkeep.trans (ho.setPending s rest))
    exact ⟨rest, .inr (.inr ⟨w, hp, opcode_of_decodeImage hd ▸ hopcode i hdest⟩)⟩

/-! ## The flags and the registers -/

/-- Settles O29: no act touches a flag, and a change of the flags passes through every instruction. -/
theorem flagsAreStorageOnly : Obligations.FlagsAreStorageOnly := by
  refine ⟨fun s t h => ⟨?_, ?_⟩, exec_setFlags⟩
  · exact observes_ov.step_changes_of_host (fun i s addr => let ⟨hov, _⟩ := actAt_frame i s addr; hov) h
  · exact observes_ci.step_changes_of_host (fun i s addr => let ⟨_, hci, _⟩ := actAt_frame i s addr; hci) h

/-- Settles O30: the accumulator is the destination of opcodes 8 and 16 only, and a source of opcode 24 only. -/
theorem accumulatorAccess : Obligations.AccumulatorAccess := by
  refine ⟨fun s t h hne => ?_, fun i s v h8 h16 h24 => ?_, fun i s t v hload => ?_, effectiveAddress_setA⟩
  · exact observes_a.step_changes (isOpcode := fun n => n = 8 ∨ n = 16) Destination.put_a_of_ne
      (fun i hdest => ((destination_eq_a_iff i).mp hdest).imp (congrArg BitVec.toNat) (congrArg BitVec.toNat)) h hne
  · exact exec_setA (fun hdest => ((destination_eq_a_iff i).mp hdest).elim h8 h16) h24 s v
  · exact exec_setA_of_load v ((destination_eq_a_iff i).mpr hload)

/-- Settles O31: the extension is the destination of opcodes 15 and 23 only, and a source of opcode 31 only; none of
the three has the accumulator for its destination or its source. -/
theorem extensionAccess : Obligations.ExtensionAccess := by
  refine ⟨fun s t h hne => ?_, fun i s v h15 h23 h31 => ?_, fun i s t v hload => ?_, fun i s v hop => ?_⟩
  · exact observes_x.step_changes (isOpcode := fun n => n = 15 ∨ n = 23) Destination.put_x_of_ne
      (fun i hdest => ((destination_eq_x_iff i).mp hdest).imp (congrArg BitVec.toNat) (congrArg BitVec.toNat)) h hne
  · exact exec_setX (fun hdest => ((destination_eq_x_iff i).mp hdest).elim h15 h23) h31 s v
  · exact exec_setX_of_load v ((destination_eq_x_iff i).mpr hload)
  · have hother : i.opcode ≠ 8#6 ∧ i.opcode ≠ 16#6 ∧ i.opcode ≠ 24#6 := by
      obtain hop | hop | hop := hop <;> simp [hop]
    obtain ⟨h8, h16, h24⟩ := hother
    exact exec_setA (fun hdest => ((destination_eq_a_iff i).mp hdest).elim h8 h16) h24 s v

/-- Settles O32: index register `k` is the destination of opcodes `8+k` and `16+k` only; it is read by opcode `24+k`
and through selector `k` only. -/
theorem indexRegisterAccess : Obligations.IndexRegisterAccess := by
  refine fun r => ⟨fun s t h hne => ?_, fun i s v hselector h8 h16 h24 => ?_, fun i s t v hselector hload => ?_⟩
  · exact (observes_readIndex r).step_changes (isOpcode := fun n => n = 8 + regNumber r ∨ n = 16 + regNumber r)
      Destination.put_readIndex_of_ne (fun i => (destination_eq_index_iff i r).mp) h hne
  · exact exec_setIndex hselector (fun hdest => ((destination_eq_index_iff i r).mp hdest).elim h8 h16) h24 s v
  · exact exec_setIndex_of_load v hselector ((destination_eq_index_iff i r).mpr hload)

/-! ## The host's reads -/

@[simp] theorem readLocation_setPending (s : State) (ts : List Transaction) (loc : Location) :
    readLocation (s.setPending ts) loc = readLocation s loc := by
  cases loc with
  | index r => simp [readLocation]
  | a | x | ov | ci | mem addr => rfl

/-- `HostRead` of a location that exists returns its image and changes nothing. -/
theorem step_hostRead_of_ok {s : State} {rest : List Transaction} {loc : Location} {v : PortValue}
    (hp : s.pending = .hostRead loc :: rest) (hread : readLocation s loc = .ok v) :
    step s = .next { s with pending := rest, response := some (.value v) } := by
  rw [step_pending hp, perform, performRead, readLocation_setPending, hread]
  rfl

/-- `HostRead` of a location that does not exist is refused. -/
theorem step_hostRead_of_error {s : State} {rest : List Transaction} {loc : Location} {e : Refusal}
    (hp : s.pending = .hostRead loc :: rest) (hread : readLocation s loc = .error e) : step s = .refused e := by
  rw [step_pending hp, perform, performRead, readLocation_setPending, hread]

theorem readLocation_mem_of_le (s : State) {addr : Nat} (h : addr ≤ 3999) :
    readLocation s (.mem addr) = .ok (.cell (s.mem.read addr).toImage) :=
  if_pos (Nat.lt_succ_of_le h)

theorem readLocation_mem_of_gt (s : State) {addr : Nat} (h : 3999 < addr) :
    readLocation s (.mem addr) = .error (.noSuchLocation addr) :=
  if_neg (Nat.not_lt_of_ge h)

/-- Settles O17: one case a kind of location, a memory location by whether it exists. -/
theorem hostReadReturnsTheLocation : Obligations.HostReadReturnsTheLocation := by
  intro s rest loc hp
  refine ⟨?_, ?_, fun r => ?_, ?_, ?_, fun addr => ?_, fun addr => ?_⟩ <;> rintro rfl
  · exact step_hostRead_of_ok hp rfl
  · exact step_hostRead_of_ok hp rfl
  · exact step_hostRead_of_ok hp rfl
  · exact step_hostRead_of_ok hp rfl
  · exact step_hostRead_of_ok hp rfl
  · exact fun hle => step_hostRead_of_ok hp (readLocation_mem_of_le s hle)
  · exact fun hgt => step_hostRead_of_error hp (readLocation_mem_of_gt s hgt)

/-! ## The state after reset -/

theorem reset_readIndex (r : IndexReg) : State.reset.readIndex r = plusZeroIndex := by
  cases r <;> rfl

/-- No cell is listed after reset, so every cell reads as its `MEM_INIT`. -/
theorem reset_mem_read (a : Nat) : State.reset.mem.read a = Config.memInit State.reset.mem.epoch a := rfl

/-- Settles O16: the reset values of R29, register by register. -/
theorem resetStateHoldsResetValues : Obligations.ResetStateHoldsResetValues :=
  ⟨rfl, rfl, reset_readIndex, rfl, rfl, reset_mem_read⟩

end Sys2Proof.Machine

/-! # Proofs: instruction encoding (spec 30_encoding.md)

The plan: an image is read as one number, the weighted sum of its parts (`Cell.toNat_toImage`), and both halves of the
bijection are arithmetic on that number. The decoder rejects by the opcode byte alone. For the text form, each piece
of a line has one lemma: the parser of the piece gives its value back and leaves the rest of the line. -/

namespace Sys2Proof

/-! ## Images as numbers -/

@[simp] theorem Sign.toNat_bit (s : Sign) : s.bit.toNat = if s = .neg then 1 else 0 := by
  cases s <;> rfl

@[simp] theorem Sign.ofBit_bit (s : Sign) : Sign.ofBit s.bit = s := by
  cases s <;> rfl

@[simp] theorem Sign.bit_ofBit (b : BitVec 1) : (Sign.ofBit b).bit = b := by
  revert b
  decide

/-- Appending puts the left vector's number above the right vector's bits. -/
theorem toNat_append_eq_add {m n : Nat} (x : BitVec m) (y : BitVec n) :
    (x ++ y).toNat = x.toNat * 2 ^ n + y.toNat := by
  rw [BitVec.toNat_append, ← Nat.shiftLeft_add_eq_or_of_lt y.isLt, Nat.shiftLeft_eq]

theorem Cell.toNat_toImage (c : Cell) :
    c.toImage.toNat = c.sign.bit.toNat * 2 ^ 30 + c.b0.toNat * 2 ^ 24 + c.b1.toNat * 2 ^ 18 + c.b2.toNat * 2 ^ 12
      + c.b3.toNat * 2 ^ 6 + c.b4.toNat := by
  simp only [Cell.toImage, toNat_append_eq_add]
  omega

theorem IndexCell.toNat_toImage (v : IndexCell) :
    v.toImage.toNat = v.sign.bit.toNat * 2 ^ 12 + v.b0.toNat * 2 ^ 6 + v.b1.toNat := by
  simp only [IndexCell.toImage, toNat_append_eq_add]
  omega

/-- A slice of a vector, as a number: shift it down and keep its width. -/
theorem toNat_extractLsb'_eq_div_mod {n : Nat} (start len : Nat) (w : BitVec n) :
    (w.extractLsb' start len).toNat = w.toNat / 2 ^ start % 2 ^ len := by
  rw [BitVec.extractLsb'_toNat, Nat.shiftRight_eq_div_pow]

/-- A slice is the part `x` when the number's digits there are those of `x`. -/
theorem extractLsb'_eq_of_div_mod_eq {n start len : Nat} {w : BitVec n} {x : BitVec len}
    (h : w.toNat / 2 ^ start % 2 ^ len = x.toNat) : w.extractLsb' start len = x :=
  BitVec.eq_of_toNat_eq ((toNat_extractLsb'_eq_div_mod start len w).trans h)

theorem Cell.toImage_ofImage (w : CellImage) : (Cell.ofImage w).toImage = w := by
  apply BitVec.eq_of_toNat_eq
  simp only [Cell.toNat_toImage, Cell.ofImage, Sign.bit_ofBit, toNat_extractLsb'_eq_div_mod]
  omega

theorem Cell.ofImage_toImage (c : Cell) : Cell.ofImage c.toImage = c := by
  have himage := c.toNat_toImage
  have hsign : c.toImage.extractLsb' 30 1 = c.sign.bit := extractLsb'_eq_of_div_mod_eq (by omega)
  simp only [Cell.ofImage, hsign, Sign.ofBit_bit]
  congr 1 <;> exact extractLsb'_eq_of_div_mod_eq (by omega)

theorem IndexCell.toImage_ofImage (w : IndexImage) : (IndexCell.ofImage w).toImage = w := by
  apply BitVec.eq_of_toNat_eq
  simp only [IndexCell.toNat_toImage, IndexCell.ofImage, Sign.bit_ofBit, toNat_extractLsb'_eq_div_mod]
  omega

theorem IndexCell.ofImage_toImage (v : IndexCell) : IndexCell.ofImage v.toImage = v := by
  have himage := v.toNat_toImage
  have hsign : v.toImage.extractLsb' 12 1 = v.sign.bit := extractLsb'_eq_of_div_mod_eq (by omega)
  simp only [IndexCell.ofImage, hsign, Sign.ofBit_bit]
  congr 1 <;> exact extractLsb'_eq_of_div_mod_eq (by omega)

/-- Settles O4: the number of an image (R47), and the two round trips that make the map a bijection. -/
theorem cellImageIsPackedBytes : Obligations.CellImageIsPackedBytes := by
  refine ⟨fun c => ?_, Cell.ofImage_toImage, Cell.toImage_ofImage⟩
  rw [c.toNat_toImage, Sign.toNat_bit]

/-! ## The decoder, opcode by opcode -/

theorem Instr.opcode_implemented (i : Instr) : 8 ≤ i.opcode.toNat ∧ i.opcode.toNat ≤ 31 := by
  cases i <;> simp [Instr.opcode]

theorem exists_decode_eq_ok {c : Cell} (hlow : 8 ≤ c.b4.toNat) (hhigh : c.b4.toNat ≤ 31) :
    ∃ i, decode c = .ok i := by
  unfold decode
  interval_cases c.b4.toNat <;> exact ⟨_, rfl⟩

/-- The decoder examines the opcode byte alone to reject (R55). -/
theorem decode_eq_error_iff (c : Cell) : (∃ r, decode c = .error r) ↔ c.b4.toNat < 8 ∨ 31 < c.b4.toNat := by
  constructor
  · rintro ⟨r, h⟩
    by_contra hopcode
    obtain ⟨i, hi⟩ := exists_decode_eq_ok (c := c) (by omega) (by omega)
    cases h.symm.trans hi
  · intro hopcode
    cases h : decode c with
    | error r => exact ⟨r, rfl⟩
    | ok i =>
      obtain ⟨hlow, hhigh⟩ := i.opcode_implemented
      rw [Machine.opcode_of_decode h] at hlow hhigh
      omega

theorem Cell.toNat_b4_ofImage (w : CellImage) : (Cell.ofImage w).b4.toNat = w.toNat % 64 := by
  simp [Cell.ofImage]

theorem decodeImage_eq_error_iff (w : CellImage) :
    (∃ r, decodeImage w = .error r) ↔ w.toNat % 64 < 8 ∨ 31 < w.toNat % 64 := by
  rw [← Cell.toNat_b4_ofImage]
  exact decode_eq_error_iff (Cell.ofImage w)

/-! ## Decoding an encoded instruction -/

@[simp] theorem unpack_pack (left right : BitVec 3) : unpack (pack left right) = (left, right) := by
  revert left right
  decide

@[simp] theorem operandOf_encode (i : Instr) : operandOf (encode i) = i.operand := by
  simp [operandOf, encode]

theorem decode_encode (i : Instr) : decode (encode i) = .ok i := by
  simp only [decode, operandOf_encode]
  cases i <;> rfl

theorem Instr.wellFormed_iff (i : Instr) : i.wellFormed = true ↔
    i.operand.index.toNat ≤ 6 ∧ i.operand.left.toNat ≤ i.operand.right.toNat ∧ i.operand.right.toNat ≤ 5 := by
  simp [Instr.wellFormed, Operand.wellFormed, Operand.selectorOk, Operand.fieldOk]

/-! ## The two digits of an address -/

theorem decodeBytes_pair_le (b0 b1 : Byte) : decodeBytes [b0, b1] ≤ 4095 := by
  rw [decodeBytes_pair]
  omega

@[simp] theorem decodeBytes_pair_div (b0 b1 : Byte) : decodeBytes [b0, b1] / 64 = b0.toNat := by
  rw [decodeBytes_pair]
  omega

@[simp] theorem decodeBytes_pair_mod (b0 b1 : Byte) : decodeBytes [b0, b1] % 64 = b1.toNat := by
  rw [decodeBytes_pair]
  omega

end Sys2Proof

namespace Sys2Proof.Machine

/-! ## The flags' images, and the refused one -/

@[simp] theorem Overflow.ofImage_toImage (v : Overflow) : Overflow.ofImage v.toImage = v := by
  cases v <;> rfl

@[simp] theorem Comparison.ofImage_toImage (v : Comparison) : Comparison.ofImage v.toImage = some v := by
  cases v <;> rfl

/-- The unused image stands for no value, so no value has it. -/
theorem Comparison.toImage_ne_unused (v : Comparison) : v.toImage ≠ 0b11#2 := by
  cases v <;> decide

theorem step_hostWrite_ci_unused {s : State} {rest : List Transaction}
    (hp : s.pending = .hostWrite .ci (.ci 0b11#2) :: rest) : step s = .refused .unusedComparisonImage :=
  step_pending hp

/-- Settles O5: each image as a number with its round trips (R48), and the refusal of the unused one. -/
theorem stateImagesArePacked : Obligations.StateImagesArePacked := by
  refine ⟨fun v => ?_, IndexCell.ofImage_toImage, IndexCell.toImage_ofImage, ⟨rfl, rfl, Overflow.ofImage_toImage⟩,
    ⟨rfl, rfl, rfl⟩, fun v => ⟨v.toImage_ne_unused, v.ofImage_toImage⟩, fun _ _ => step_hostWrite_ci_unused⟩
  rw [v.toNat_toImage, Sign.toNat_bit]

/-! ## Unimplemented opcodes -/

/-- `Execute` of an image the decoder rejects is answered by the fault's status; nothing else changes. -/
theorem step_execute_of_error {s : State} {w : CellImage} {rest : List Transaction} {r : Reject}
    (hp : s.pending = .execute w :: rest) (h : decodeImage w = .error r) :
    step s = .next { s with pending := rest, response := some (.status .unimplementedOpcode) } := by
  rw [step_pending hp, perform_execute_error _ h]
  rfl

/-- Settles O7: the decoder rejects exactly these opcodes (R55), and a rejected image only faults (R122). -/
theorem unimplementedOpcodesOnlyFault : Obligations.UnimplementedOpcodesOnlyFault := by
  refine fun w => ⟨(decodeImage_eq_error_iff w).symm, fun s rest hp hopcode => ?_⟩
  obtain ⟨r, h⟩ := (decodeImage_eq_error_iff w).mpr hopcode
  exact step_execute_of_error hp h

end Sys2Proof.Machine

namespace Sys2Proof.TextCodec

/-! ## Decimal numbers -/

@[simp] theorem isDecimal_digitChar {d : Nat} (h : d < 10) : isDecimal (digitChar d) = true := by
  interval_cases d <;> rfl

@[simp] theorem digitValue_digitChar {d : Nat} (h : d < 10) : digitValue (digitChar d) = d := by
  interval_cases d <;> rfl

theorem decimal_ne_nil (n : Nat) : decimal n ≠ [] := by
  unfold decimal
  split_ifs <;> simp

theorem isDecimal_of_mem_decimal {n : Nat} (h : n < 10000) : ∀ c ∈ decimal n, isDecimal c = true := by
  unfold decimal
  split_ifs <;> simp (disch := omega)

theorem decimalValue_decimal {n : Nat} (h : n < 10000) : decimalValue (decimal n) = n := by
  unfold decimal
  split_ifs <;> simp (disch := omega) [decimalValue] <;> omega

/-! ## The mnemonic table -/

theorem mem_opcodes_iff (n : Nat) : n ∈ opcodes ↔ 8 ≤ n ∧ n ≤ 31 := by
  rw [opcodes, List.mem_range'_1]
  omega

/-- No two opcodes share a mnemonic (R62). -/
theorem opcodeOf_mnemonic : ∀ n ∈ opcodes, opcodeOf (mnemonic n) = some n := by
  decide

theorem space_notMem_mnemonic : ∀ n ∈ opcodes, ' ' ∉ mnemonic n := by
  decide

/-- The mnemonic ends at the first space, and the rest of the line are the operands. -/
theorem parse_mnemonic_append {opcode : Nat} (h : opcode ∈ opcodes) (operands : List Char) :
    parse (mnemonic opcode ++ ' ' :: operands) = parseOperands opcode (' ' :: operands) := by
  have hspace : ∀ c ∈ mnemonic opcode, (c != ' ') = true := fun c hc =>
    bne_iff_ne.mpr fun heq => space_notMem_mnemonic opcode h (heq ▸ hc)
  simp [parse, List.takeWhile_append_of_pos hspace, List.dropWhile_append_of_pos hspace, opcodeOf_mnemonic opcode h]

/-! ## The parts of a line -/

/-- The sign is told from what is rendered: `-`, or a digit first. -/
theorem addressSign_renderAddress (sign : Sign) {m : Nat} (h : m < 10000) (rest : List Char) :
    addressSign (renderAddress sign m ++ rest) = .ok (sign, decimal m ++ rest) := by
  cases sign with
  | neg => exact addressSign_minus (decimal m ++ rest)
  | pos =>
    obtain ⟨d, ds, hdecimal⟩ := List.exists_cons_of_ne_nil (decimal_ne_nil m)
    have hdigit := isDecimal_of_mem_decimal h d (by simp [hdecimal])
    simpa [renderAddress, hdecimal] using addressSign_digit (ds ++ rest) hdigit

theorem parseAddress_renderAddress (sign : Sign) {m : Nat} (hm : m ≤ 4095) {rest : List Char}
    (hrest : ∀ c ∈ rest.head?, isDecimal c = false) :
    parseAddress (renderAddress sign m ++ rest) = .ok (sign, m, rest) := by
  have hdigits := isDecimal_of_mem_decimal (n := m) (by omega)
  have hstop : rest.takeWhile isDecimal = [] ∧ rest.dropWhile isDecimal = rest := by
    cases rest with
    | nil => simp
    | cons c cs => simp [hrest c rfl]
  simp [parseAddress, addressSign_renderAddress sign (m := m) (by omega), List.takeWhile_append_of_pos hdigits,
    List.dropWhile_append_of_pos hdigits, hstop, decimal_ne_nil, decimalValue_decimal (n := m) (by omega), hm]

/-- Without a comma the index is 0 and the line is left as it is. -/
theorem parseIndex_of_no_comma {rest : List Char} (hrest : ',' ∉ rest.head?) : parseIndex rest = .ok (0, rest) := by
  unfold parseIndex
  split
  · exact absurd rfl hrest
  · rfl

theorem parseIndex_renderIndex {i : Nat} (hi : i ≤ 6) {rest : List Char} (hrest : ',' ∉ rest.head?) :
    parseIndex (renderIndex i ++ rest) = .ok (i, rest) := by
  by_cases h0 : i = 0
  · subst h0
    exact parseIndex_of_no_comma hrest
  · simp (disch := omega) [renderIndex, h0, parseIndex, hi]

theorem parseField_renderField {left right : Nat} (hlr : left ≤ right) (hr : right ≤ 5) :
    parseField (renderField left right) = .ok (left, right) := by
  by_cases hdefault : left = 0 ∧ right = 5
  · obtain ⟨rfl, rfl⟩ := hdefault
    rfl
  · simp (disch := omega) [renderField, hdefault, parseField, hlr, hr]

/-- An index or a field begins with `,` or `(`, which ends the address. -/
theorem isDecimal_head?_renderIndex_renderField (i left right : Nat) :
    ∀ c ∈ (renderIndex i ++ renderField left right).head?, isDecimal c = false := by
  unfold renderIndex renderField
  split_ifs <;> simp <;> rfl

theorem comma_notMem_head?_renderField (left right : Nat) : ',' ∉ (renderField left right).head? := by
  unfold renderField
  split_ifs <;> simp

@[simp] theorem except_ok_bind {ε α β : Type} (a : α) (f : α → Except ε β) : (Except.ok a >>= f) = f a := rfl

/-! ## The line of an instruction -/

/-- The text form of a legal instruction (R61, R65). -/
def lineOf (i : Instr) : List Char :=
  mnemonic i.opcode.toNat ++ ' ' :: (renderAddress i.operand.sign (decodeBytes [i.operand.b0, i.operand.b1]) ++
    (renderIndex i.operand.index.toNat ++ renderField i.operand.left.toNat i.operand.right.toNat))

theorem render_encode {i : Instr} (h : i.wellFormed = true) : render (encode i) = some (lineOf i) := by
  rw [render, decode_encode]
  simp [h, encode, lineOf]

/-- Each part gives its number back, and the numbers are the bytes of the cell. -/
theorem parse_lineOf {i : Instr} (h : i.wellFormed = true) : parse (lineOf i) = .ok (encode i) := by
  obtain ⟨hindex, hlr, hr⟩ := i.wellFormed_iff.mp h
  have haddress := parseAddress_renderAddress i.operand.sign (decodeBytes_pair_le i.operand.b0 i.operand.b1)
    (isDecimal_head?_renderIndex_renderField i.operand.index.toNat i.operand.left.toNat i.operand.right.toNat)
  rw [lineOf, parse_mnemonic_append ((mem_opcodes_iff _).mpr i.opcode_implemented)]
  simp [parseOperands, haddress, parseIndex_renderIndex hindex (comma_notMem_head?_renderField _ _),
    parseField_renderField hlr hr, encode, pack, Nat.mul_comm]

/-- Settles O49: a legal instruction's line (R65) is parsed part by part (R64); R66's example by evaluation. -/
theorem parsingInvertsRendering : Obligations.ParsingInvertsRendering :=
  ⟨fun i h => ⟨lineOf i, render_encode h, parse_lineOf h⟩, by decide, by decide⟩

end Sys2Proof.TextCodec

/-! # Proofs: the datapath functions (spec 40_datapath_functions.md)

The plan: the field unit is read byte by byte off `getField_byte` and `setField_byte`. The address codec is one fact
about magnitudes (`encodeSigned_decodeSigned`), and a byte is the pair with a zero byte before it. An operand that
passes its checks acts at its effective address (`exec_of_addressInRange`), and that act neither reads nor writes any
other memory cell (`leavesCellAlone_of_ne`). -/

namespace Sys2Proof

/-! ## The field unit -/

theorem fieldRange_n_add_lo {left right : Nat} (h : left ≤ right) :
    (fieldRange left right).n + max left 1 = right + 1 := by
  simp only [fieldRange]
  omega

/-- The bytes before the right-justified field are zero. -/
theorem getField_byte_of_lt (c : Cell) {left right j : Nat} (h : j + (fieldRange left right).n < 5) :
    (getField c left right).byte j = 0#6 := by
  simp only [fieldRange] at h
  rw [getField_byte c left right (by omega), if_pos (by omega)]

/-- Byte `k` of the field arrives at byte `k` of the last `n`. -/
theorem getField_byte_field (c : Cell) {left right k : Nat} (hright : right ≤ 5) (h : k < (fieldRange left right).n) :
    (getField c left right).byte (5 - (fieldRange left right).n + k) = c.byte (max left 1 - 1 + k) := by
  simp only [fieldRange] at h ⊢
  rw [getField_byte c left right (by omega), if_neg (by omega)]
  congr 2
  omega

/-- Settles O38: the range by arithmetic, the bytes by the two halves of the right-justified result. -/
theorem getFieldSelectsRightJustified : Obligations.GetFieldSelectsRightJustified := by
  intro c left right hle hright
  have hn := fieldRange_n_add_lo hle
  exact ⟨decide_eq_true_iff, rfl, hn, by omega, getField_sign c left right, fun j => getField_byte_of_lt c,
    fun k => getField_byte_field c hright, rfl, rfl, rfl⟩

/-- The field takes the low bytes of `v`. -/
theorem setField_byte_field (c v : Cell) {left right k : Nat} (hright : right ≤ 5) (h : k + max left 1 ≤ right) :
    (setField c left right v).byte (max left 1 - 1 + k) = v.byte (5 - (right + 1 - max left 1) + k) := by
  rw [setField_byte c v left right (by omega), if_pos (by omega), Nat.add_sub_cancel_left]

/-- A byte outside the field stays. -/
theorem setField_byte_of_outside (c v : Cell) {left right j : Nat} (hj : j < 5) (h : j + 1 < max left 1 ∨ right ≤ j) :
    (setField c left right v).byte j = c.byte j := by
  rw [setField_byte c v left right hj, if_neg (by omega)]

/-- Settles O39: one lemma for the bytes of the field and one for those outside it. -/
theorem setFieldReplacesOnlyTheField : Obligations.SetFieldReplacesOnlyTheField := fun c v left right _ hright =>
  ⟨setField_sign c v left right, fun _ => setField_byte_field c v hright, fun _ => setField_byte_of_outside c v,
    rfl, rfl, rfl⟩

/-! ## Decoding digits -/

/-- Digits read after `acc` has been read. -/
theorem foldl_digits_eq (bs : List Byte) (acc : Nat) :
    bs.foldl (fun acc b => acc * 64 + b.toNat) acc = acc * 64 ^ bs.length + decodeBytes bs := by
  induction bs generalizing acc with
  | nil => simp
  | cons b bs ih =>
    rw [decodeBytes, List.foldl_cons, List.foldl_cons, ih, ih, List.length_cons]
    ring

theorem decodeBytes_cons (b : Byte) (bs : List Byte) :
    decodeBytes (b :: bs) = b.toNat * 64 ^ bs.length + decodeBytes bs := by
  rw [decodeBytes, List.foldl_cons, foldl_digits_eq, Nat.zero_mul, Nat.zero_add]

@[simp] theorem decodeSigned_pos (bs : List Byte) : decodeSigned .pos bs = decodeBytes bs := rfl

@[simp] theorem decodeSigned_neg (bs : List Byte) : decodeSigned .neg bs = -(decodeBytes bs : Int) := rfl

theorem decodeSigned_natAbs (g : Sign) (bs : List Byte) : (decodeSigned g bs).natAbs = decodeBytes bs := by
  cases g <;> simp

theorem decodeSigned_pair_bounds (g : Sign) (b0 b1 : Byte) :
    -4095 ≤ decodeSigned g [b0, b1] ∧ decodeSigned g [b0, b1] ≤ 4095 := by
  have hmagnitude := decodeSigned_natAbs g [b0, b1]
  have hle := decodeBytes_pair_le b0 b1
  omega

/-- Settles O41: the leading byte has the weight of its place, and the sign is applied to the magnitude. -/
theorem decodeIsPositional : Obligations.DecodeIsPositional :=
  ⟨fun b => by simp [decodeBytes_cons], fun b c bs => decodeBytes_cons b (c :: bs), fun _ _ => ⟨rfl, rfl⟩,
    decodeBytes_pair_le, decodeSigned_pair_bounds, fun g => by cases g <;> rfl, by decide⟩

/-! ## Encoding a signed value -/

theorem encodeSigned_of_le {v : Int} (h : v.natAbs ≤ 4095) :
    encodeSigned v =
      some ⟨if 0 ≤ v then .pos else .neg, BitVec.ofNat 6 (v.natAbs / 64), BitVec.ofNat 6 (v.natAbs % 64)⟩ :=
  if_pos h

/-- The two digits of a magnitude up to 4095 fit their bytes. -/
theorem toNat_ofNat_digits {n : Nat} (h : n ≤ 4095) :
    (BitVec.ofNat 6 (n / 64)).toNat = n / 64 ∧ (BitVec.ofNat 6 (n % 64)).toNat = n % 64 := by
  rw [BitVec.toNat_ofNat, BitVec.toNat_ofNat]
  omega

/-- Settles O42: in range by the digits of the magnitude, outside by the refusing branch. -/
theorem encodeSignedGivesSignAndDigits : Obligations.EncodeSignedGivesSignAndDigits := by
  refine ⟨fun v hlow hhigh => ?_, fun v hout => if_neg (by omega)⟩
  have hle : v.natAbs ≤ 4095 := by omega
  exact ⟨_, encodeSigned_of_le hle, by simp, toNat_ofNat_digits hle⟩

/-! ## The round trips of the address codec -/

/-- Decoding the digits of a value in range gives the value back. -/
theorem decodeSigned_encodeSigned {v : Int} (h : v.natAbs ≤ 4095) :
    ∃ x, encodeSigned v = some x ∧ decodeSigned x.sign [x.b0, x.b1] = v := by
  refine ⟨_, encodeSigned_of_le h, ?_⟩
  obtain ⟨hhigh, hlow⟩ := toNat_ofNat_digits h
  have hmagnitude : decodeBytes [BitVec.ofNat 6 (v.natAbs / 64), BitVec.ofNat 6 (v.natAbs % 64)] = v.natAbs := by
    rw [decodeBytes_pair, hhigh, hlow]
    omega
  by_cases hv : 0 ≤ v
  · rw [if_pos hv, decodeSigned_pos, hmagnitude]
    omega
  · rw [if_neg hv, decodeSigned_neg, hmagnitude]
    omega

/-- The sign of a decoded value is the sign decoded, but for a negative zero. -/
theorem sign_of_decodeSigned (g : Sign) (bs : List Byte) :
    (if 0 ≤ decodeSigned g bs then Sign.pos else .neg) = if g = .neg ∧ decodeBytes bs = 0 then .pos else g := by
  cases g
  · simp
  · simp [Int.neg_nonneg]

theorem decodeBytes_pair_eq_zero_iff (b0 b1 : Byte) : decodeBytes [b0, b1] = 0 ↔ b0 = 0#6 ∧ b1 = 0#6 := by
  rw [decodeBytes_pair]
  bv_omega

/-- Encoding a decoded pair gives the pair back, with a negative zero made positive. -/
theorem encodeSigned_decodeSigned (g : Sign) (b0 b1 : Byte) : encodeSigned (decodeSigned g [b0, b1]) =
    some (if g = .neg ∧ b0 = 0#6 ∧ b1 = 0#6 then ⟨.pos, 0#6, 0#6⟩ else ⟨g, b0, b1⟩) := by
  have hmagnitude := decodeSigned_natAbs g [b0, b1]
  have hle := decodeBytes_pair_le b0 b1
  rw [encodeSigned_of_le (by omega), hmagnitude, decodeBytes_pair_div, decodeBytes_pair_mod, BitVec.ofNat_toNat,
    BitVec.ofNat_toNat, BitVec.setWidth_eq, BitVec.setWidth_eq]
  simp only [sign_of_decodeSigned, decodeBytes_pair_eq_zero_iff]
  by_cases hzero : g = .neg ∧ b0 = 0#6 ∧ b1 = 0#6
  · rw [if_pos hzero, if_pos hzero]
    obtain ⟨-, rfl, rfl⟩ := hzero
    rfl
  · rw [if_neg hzero, if_neg hzero]

/-- A zero byte before a single byte changes nothing. -/
theorem decodeSigned_singleton (g : Sign) (b : Byte) : decodeSigned g [b] = decodeSigned g [0#6, b] := by
  have hbytes : decodeBytes [b] = decodeBytes [0#6, b] := by simp [decodeBytes_cons]
  cases g <;> simp [hbytes]

/-- Settles O43: both directions for two bytes, and one byte as the pair with a zero byte before it. -/
theorem addressCodecRoundTrips : Obligations.AddressCodecRoundTrips := by
  refine ⟨fun v hlow hhigh => decodeSigned_encodeSigned (by omega), encodeSigned_decodeSigned, fun g b => ?_⟩
  rw [decodeSigned_singleton, encodeSigned_decodeSigned]
  simp

/-! ## The index conversions -/

/-- Widening undoes narrowing exactly on the cells with nothing to drop. -/
theorem indexToCell_cellToIndex_iff (c : Cell) :
    indexToCell (cellToIndex c) = c ↔ c.b0 = 0#6 ∧ c.b1 = 0#6 ∧ c.b2 = 0#6 := by
  obtain ⟨sign, b0, b1, b2, b3, b4⟩ := c
  simp [indexToCell, cellToIndex, @eq_comm _ (0#6)]

/-- Settles O44: both conversions byte by byte (R81, R82). -/
theorem indexConversionsKeepTheTwoLowBytes : Obligations.IndexConversionsKeepTheTwoLowBytes := by
  refine ⟨fun v => ⟨rfl, fun j hj => ?_, rfl, rfl⟩, fun _ => rfl, fun _ => rfl, indexToCell_cellToIndex_iff⟩
  interval_cases j <;> rfl

end Sys2Proof

namespace Sys2Proof.Machine

/-! ## The effective address as a sum -/

theorem decodeSigned_eq_signedPair (g : Sign) (b0 b1 : Byte) : decodeSigned g [b0, b1] = signedPair g b0 b1 := by
  cases g <;> simp [signedPair, decodeBytes_pair, mul_comm]

/-- A selector that names no register is 0 or illegal. -/
theorem toNat_of_selectIndex_eq_none {b : Byte} (h : selectIndex b = none) : b.toNat = 0 ∨ 6 < b.toNat := by
  by_contra hlegal
  have hlow : 1 ≤ b.toNat := by omega
  have hhigh : b.toNat ≤ 6 := by omega
  unfold selectIndex at h
  interval_cases b.toNat <;> cases h

theorem displacement_regNumber (s : State) (r : IndexReg) : displacement s (regNumber r) =
    signedPair (s.readIndex r).sign (s.readIndex r).b0 (s.readIndex r).b1 := by
  cases r <;> rfl

theorem displacement_of_no_register (s : State) {k : Nat} (h : k = 0 ∨ 6 < k) : displacement s k = 0 := by
  unfold displacement
  repeat rw [if_neg (by omega)]

theorem indexDelta_of_none (s : State) {b : Byte} (h : selectIndex b = none) : indexDelta s b = 0 := by
  simp [indexDelta, h]

theorem indexDelta_of_some (s : State) {b : Byte} {r : IndexReg} (h : selectIndex b = some r) :
    indexDelta s b = decodeSigned (s.readIndex r).sign [(s.readIndex r).b0, (s.readIndex r).b1] := by
  simp [indexDelta, h]

theorem indexDelta_eq_displacement (s : State) (b : Byte) : indexDelta s b = displacement s b.toNat := by
  cases h : selectIndex b with
  | none => rw [indexDelta_of_none s h, displacement_of_no_register s (toNat_of_selectIndex_eq_none h)]
  | some r =>
    rw [indexDelta_of_some s h, toNat_eq_of_selectIndex h, displacement_regNumber, decodeSigned_eq_signedPair]

theorem indexDelta_bounds (s : State) (b : Byte) : -4095 ≤ indexDelta s b ∧ indexDelta s b ≤ 4095 := by
  cases h : selectIndex b with
  | none => simp [indexDelta_of_none s h]
  | some r =>
    rw [indexDelta_of_some s h]
    exact decodeSigned_pair_bounds _ _ _

theorem addressOf_bounds (o : Operand) : -4095 ≤ addressOf o ∧ addressOf o ≤ 4095 :=
  decodeSigned_pair_bounds o.sign o.b0 o.b1

theorem effectiveAddress_bounds (o : Operand) (s : State) :
    -8190 ≤ effectiveAddress o s ∧ effectiveAddress o s ≤ 8190 := by
  obtain ⟨haddressLow, haddressHigh⟩ := addressOf_bounds o
  obtain ⟨hdeltaLow, hdeltaHigh⟩ := indexDelta_bounds s o.index
  unfold effectiveAddress
  omega

theorem effectiveAddress_eq_sum (o : Operand) (s : State) :
    effectiveAddress o s = signedPair o.sign o.b0 o.b1 + displacement s o.index.toNat := by
  rw [effectiveAddress, addressOf, decodeSigned_eq_signedPair, indexDelta_eq_displacement]

/-- The spec's fixture: -32, indexed by I2 holding 63. -/
theorem effectiveAddress_fixture {s : State} (h : s.i2 = ⟨.pos, 0#6, 63#6⟩) :
    addressOf ⟨.neg, 0#6, 32#6, 2#6, 1#3, 3#3⟩ = -32 ∧ indexDelta s 2#6 = 63 ∧
      effectiveAddress ⟨.neg, 0#6, 32#6, 2#6, 1#3, 3#3⟩ s = 31 := by
  have hdelta : indexDelta s 2#6 = 63 := by
    rw [indexDelta_of_some s (r := .i2) rfl, State.readIndex, h]
    rfl
  refine ⟨rfl, hdelta, ?_⟩
  rw [effectiveAddress, hdelta]
  rfl

/-! ## The operand checks, passed or failed at the address -/

theorem selectorOk_iff (o : Operand) : o.selectorOk = true ↔ o.index.toNat ≤ 6 :=
  decide_eq_true_iff

theorem fieldOk_iff (o : Operand) : o.fieldOk = true ↔ fieldValid o := by
  simp [Operand.fieldOk, fieldValid]

theorem resolve_of_addressInRange {o : Operand} {s : State} (hindex : o.index.toNat ≤ 6) (hfield : fieldValid o)
    (haddress : addressInRange o s) : resolve o s = .ok (effectiveAddress o s).toNat :=
  let ⟨hlow, hhigh⟩ := haddress
  resolve_of_legal ((selectorOk_iff o).mpr hindex) ((fieldOk_iff o).mpr hfield) hlow (Int.lt_add_one_of_le hhigh)

theorem resolve_of_not_addressInRange {o : Operand} {s : State} (hindex : o.index.toNat ≤ 6) (hfield : fieldValid o)
    (haddress : ¬ addressInRange o s) : resolve o s = .error .addressOutOfRange := by
  have hout : effectiveAddress o s < 0 ∨ (Config.memCells : Int) ≤ effectiveAddress o s := by
    simp only [addressInRange, Config.memCells] at haddress ⊢
    omega
  simp [resolve, (selectorOk_iff o).mpr hindex, (fieldOk_iff o).mpr hfield, hout]

theorem exec_of_addressInRange {i : Instr} {s : State} (hindex : i.operand.index.toNat ≤ 6)
    (hfield : fieldValid i.operand) (haddress : addressInRange i.operand s) :
    exec i s = .next (actAt i s (effectiveAddress i.operand s).toNat).complete := by
  rw [exec_eq, atAddress_of_ok _ (resolve_of_addressInRange hindex hfield haddress)]

theorem exec_of_not_addressInRange {i : Instr} {s : State} (hindex : i.operand.index.toNat ≤ 6)
    (hfield : fieldValid i.operand) (haddress : ¬ addressInRange i.operand s) :
    exec i s = .next (s.returned .addressOutOfRange) := by
  rw [exec_eq, atAddress_of_error _ (resolve_of_not_addressInRange hindex hfield haddress)]
  rfl

/-! ## The one cell an act uses -/

theorem Memory.read_write (m : Memory) (a b : Nat) (v : Cell) :
    (m.write a v).read b = if b = a then v else m.read b := by
  rw [Memory.read, Memory.lookup_write, Memory.write_epoch]
  split <;> rfl

theorem Memory.read_write_of_ne (m : Memory) {a b : Nat} (h : b ≠ a) (v : Cell) :
    (m.write a v).read b = m.read b := by
  rw [Memory.read_write, if_neg h]

theorem Destination.put_mem_of_ne {d : Destination} (h : d ≠ .memory) (addr : Nat) (s : State) (c : Cell) :
    (d.put addr s c).mem = s.mem := by
  cases d with
  | memory => exact absurd rfl h
  | a | x => rfl
  | index q => exact State.setIndex_mem s q _

/-- An act writes no cell but the one at its address. -/
theorem actAt_mem_read_of_ne (i : Instr) (s : State) {addr a : Nat} (h : a ≠ addr) :
    (actAt i s addr).mem.read a = s.mem.read a := by
  obtain hmem | ⟨v, hmem⟩ := actAt_mem i s addr
  · rw [hmem]
  · rw [hmem, Memory.read_write_of_ne _ h]

/-- No address depends on memory. -/
@[simp] theorem effectiveAddress_setMem (o : Operand) (s : State) (a : Nat) (v : Cell) :
    effectiveAddress o (s.setMem a v) = effectiveAddress o s :=
  effectiveAddress_congr fun r _ => State.setMem_readIndex s a v r

/-- What an instruction writes depends on no cell but the one at its address. -/
theorem writtenCell_setMem (i : Instr) (s : State) {addr a : Nat} (h : a ≠ addr) (v : Cell) :
    writtenCell i (s.setMem a v) addr = writtenCell i s addr := by
  have hread : (s.mem.write a v).read addr = s.mem.read addr := Memory.read_write_of_ne _ h.symm v
  cases i <;> simp [writtenCell, fetchField, mergeField, hread]

/-- A put does the same to the registers whatever a memory cell holds. -/
theorem Destination.put_setMem_registers (d : Destination) (addr : Nat) (s : State) (a : Nat) (v c : Cell) :
    (d.put addr (s.setMem a v) c).a = (d.put addr s c).a ∧ (d.put addr (s.setMem a v) c).x = (d.put addr s c).x ∧
      ∀ r, (d.put addr (s.setMem a v) c).readIndex r = (d.put addr s c).readIndex r := by
  cases d with
  | a | x | memory => exact ⟨rfl, rfl, fun r => by cases r <;> rfl⟩
  | index q => simp [Destination.put, State.readIndex_setIndex]

/-- A put elsewhere keeps what a memory cell holds, and does the same to every other cell. -/
theorem Destination.put_setMem_mem_read (d : Destination) (s : State) {addr a : Nat} (h : a ≠ addr) (v c : Cell)
    (b : Nat) : (d.put addr (s.setMem a v) c).mem.read b = if b = a then v else (d.put addr s c).mem.read b := by
  cases d with
  | a | x => exact Memory.read_write s.mem a b v
  | index q => simp [Destination.put, Memory.read_write]
  | memory =>
    simp only [Destination.put, State.setMem_mem, Memory.read_write]
    by_cases hb : b = a
    · rw [if_pos hb, if_pos hb, if_neg (by omega)]
    · rw [if_neg hb, if_neg hb]

/-- An instruction that passes its checks leaves alone every cell but the one at its address. -/
theorem leavesCellAlone_of_ne {i : Instr} {s : State} {addr a : Nat} (h : resolve i.operand s = .ok addr)
    (ha : a ≠ addr) : LeavesCellAlone i s (actAt i s addr).complete a := by
  refine ⟨actAt_mem_read_of_ne i s ha, fun v => ?_⟩
  have hresolve : resolve i.operand (s.setMem a v) = .ok addr :=
    (resolve_congr (effectiveAddress_setMem i.operand s a v)).trans h
  have hexec : exec i (s.setMem a v) =
      .next ((destination i).put addr (s.setMem a v) (writtenCell i s addr)).complete := by
    rw [exec_eq, atAddress_of_ok _ hresolve, actAt_eq_put, writtenCell_setMem i s ha]
  obtain ⟨hregA, hregX, hregIndex⟩ := (destination i).put_setMem_registers addr s a v (writtenCell i s addr)
  have hread := (destination i).put_setMem_mem_read s ha v (writtenCell i s addr)
  rw [actAt_eq_put]
  exact ⟨_, hexec, rfl, (hread a).trans (if_pos rfl), hregA, hregX, hregIndex, fun b hb => (hread b).trans (if_neg hb)⟩

/-- Settles O45: the sum and its bounds, and the outcome by whether the sum is an address of the memory. -/
theorem effectiveAddressIsTheExactSum : Obligations.EffectiveAddressIsTheExactSum := by
  refine ⟨fun o s => ?_, fun i s hindex hfield => ⟨exec_of_not_addressInRange hindex hfield, fun haddress => ?_⟩,
    fun s => effectiveAddress_fixture⟩
  · obtain ⟨haddressLow, haddressHigh⟩ := addressOf_bounds o
    obtain ⟨hdeltaLow, hdeltaHigh⟩ := indexDelta_bounds s o.index
    exact ⟨decodeSigned_eq_signedPair o.sign o.b0 o.b1, haddressLow, haddressHigh, fun _ =>
      ⟨indexDelta_eq_displacement s o.index, hdeltaLow, hdeltaHigh, effectiveAddress_eq_sum o s,
        effectiveAddress_bounds o s⟩⟩
  · refine ⟨_, exec_of_addressInRange hindex hfield haddress, rfl, fun a ha => ?_⟩
    have hnonneg : 0 ≤ effectiveAddress i.operand s := haddress.1
    exact leavesCellAlone_of_ne (resolve_of_addressInRange hindex hfield haddress) (by omega)

/-! ## The frame of the instructions -/

/-- Settles O28: a fault keeps everything, and an act puts one cell into the destination, in memory at the effective
address. -/
theorem eachOpcodeTouchesOnlyWhatItNames : Obligations.EachOpcodeTouchesOnlyWhatItNames := by
  intro i s t h
  obtain ⟨e, -, hexec⟩ | ⟨addr, haddr, hexec⟩ := exec_cases i s <;> cases hexec.symm.trans h
  case inl =>
    have hindex (r : IndexReg) : (s.raise e).readIndex r = s.readIndex r := State.respond_readIndex s _ r
    exact ⟨fun _ => rfl, fun _ => rfl, fun r _ => hindex r, ⟨rfl, rfl⟩, fun _ _ => rfl, fun _ _ => rfl,
      fun _ => ⟨rfl, rfl, hindex, fun _ => rfl⟩, rfl⟩
  case inr =>
    obtain ⟨hov, hci, hpending⟩ := actAt_frame i s addr
    obtain ⟨-, -, haddress, -⟩ := resolve_ok haddr
    refine ⟨fun hd => ?_, fun hd => ?_, fun r hd => ?_, ⟨hov, hci⟩, fun hd a => ?_, fun a ha => ?_,
      fun hfault => absurd rfl hfault, hpending⟩
    · rw [actAt_eq_put]
      exact Destination.put_a_of_ne hd addr s _
    · rw [actAt_eq_put]
      exact Destination.put_x_of_ne hd addr s _
    · rw [actAt_eq_put]
      exact (State.respond_readIndex _ _ r).trans (Destination.put_readIndex_of_ne hd addr s _)
    · rw [actAt_eq_put, State.complete_mem, Destination.put_mem_of_ne hd]
    · exact actAt_mem_read_of_ne i s (by omega)

end Sys2Proof.Machine

/-! # Proofs: the loads (spec 41_load.md)

The plan: the faults are one lemma for every instruction (`faultsInOrder`), and the fetched field is read once as the
sign and bytes of the statements (`fetchField_sign`, `fetchField_byte`). What a load adds to that is where its cell goes
and what is done to it on the way (`FetchesInto`), and each family of loads needs only that fact. -/

namespace Sys2Proof.Machine

/-! ## The faults, in their order -/

theorem resolve_of_selector_gt {o : Operand} (h : 6 < o.index.toNat) (s : State) :
    resolve o s = .error .invalidIndexSelector := by
  have hselector : o.selectorOk = false := decide_eq_false (Nat.not_le.mpr h)
  rw [resolve, if_pos hselector]

theorem resolve_of_not_fieldValid {o : Operand} (hindex : o.index.toNat ≤ 6) (hfield : ¬ fieldValid o) (s : State) :
    resolve o s = .error .invalidFieldSpec := by
  have hfieldOk : o.fieldOk = false := Bool.eq_false_iff.mpr (mt (fieldOk_iff o).mp hfield)
  simp [resolve, (selectorOk_iff o).mpr hindex, hfieldOk]

theorem exec_of_resolve_error {i : Instr} {s : State} {e : Status} (h : resolve i.operand s = .error e) :
    exec i s = .next (s.returned e) :=
  (exec_eq i s).trans (atAddress_of_error _ h)

/-- Every instruction checks its selector, its field and its address, in this order. -/
theorem faultsInOrder (i : Instr) (s : State) : FaultsInOrder i s :=
  ⟨fun hindex => exec_of_resolve_error (resolve_of_selector_gt hindex s),
    fun hindex hfield => exec_of_resolve_error (resolve_of_not_fieldValid hindex hfield s),
    exec_of_not_addressInRange⟩

/-! ## The fetched field, in the statements' words -/

theorem fetchField_sign (o : Operand) (addr : Nat) (s : State) :
    (fetchField o addr s).sign = fieldSign (s.mem.read addr) o.left.toNat :=
  getField_sign _ _ _

/-- Counted from the field's first byte or from its last, byte `j` is the same byte of the cell. -/
theorem fetchField_byte {o : Operand} (hfield : fieldValid o) (addr : Nat) (s : State) {j : Nat} (hj : j < 5) :
    (fetchField o addr s).byte j = fieldByte (s.mem.read addr) o.left.toNat o.right.toNat j := by
  obtain ⟨-, hright⟩ := hfield
  rw [fetchField, getField_byte _ _ _ hj, fieldByte]
  by_cases hzero : j < 5 - (o.right.toNat + 1 - max o.left.toNat 1)
  · rw [if_pos hzero, if_neg (by omega)]
  · rw [if_neg hzero, if_pos (by omega)]
    congr 1
    omega

/-! ## What a load adds to the checks -/

/-- The instructions `mk` builds have one opcode and fetch the named field, which goes into the destination of `put`
after `change`. -/
structure FetchesInto (mk : Operand → Instr) (opcode : Nat) (change : Cell → Cell) (put : State → Cell → State) :
    Prop where
  opcode_toNat : ∀ o, (mk o).opcode.toNat = opcode
  operand_eq : ∀ o, (mk o).operand = o
  actAt_eq : ∀ o s addr, actAt (mk o) s addr = put s (change (fetchField o addr s))

/-- The cell `change` answers has the sign turned and the bytes kept. -/
def TurnsSign (turn : Sign → Sign) (change : Cell → Cell) : Prop :=
  ∀ c : Cell, (change c).sign = turn c.sign ∧ ∀ j, (change c).byte j = c.byte j

theorem turnsSign_id : TurnsSign id id := fun _ => ⟨rfl, fun _ => rfl⟩

section
variable {mk : Operand → Instr} {opcode : Nat} {turn : Sign → Sign} {change : Cell → Cell}

theorem FetchesInto.exec_eq {put : State → Cell → State} (h : FetchesInto mk opcode change put) {o : Operand}
    {s : State} (hindex : o.index.toNat ≤ 6) (hfield : fieldValid o) (haddress : addressInRange o s) :
    exec (mk o) s = .next ((put s (change (fetchField o (effectiveAddress o s).toNat s))).returned .ok) := by
  have hexec := exec_of_addressInRange (i := mk o) (s := s)
  rw [h.operand_eq, h.actAt_eq] at hexec
  exact hexec hindex hfield haddress

theorem FetchesInto.loadsCell {put : State → Cell → State} (h : FetchesInto mk opcode change put)
    (hturn : TurnsSign turn change) : LoadsCell mk opcode turn put := by
  refine fun o s => ⟨h.opcode_toNat o, h.operand_eq o, faultsInOrder (mk o) s, fun hindex hfield haddress => ?_⟩
  obtain ⟨hsign, hbyte⟩ := hturn (fetchField o (effectiveAddress o s).toNat s)
  refine ⟨_, h.exec_eq hindex hfield haddress, ?_, fun j hj => ?_⟩
  · rw [hsign, fetchField_sign]
  · rw [hbyte, fetchField_byte hfield _ _ hj]

/-- Bytes 3 and 4 of the cell are the bytes of the index register. -/
theorem FetchesInto.loadsIndex {put : State → IndexCell → State}
    (h : FetchesInto mk opcode change fun s c => put s (cellToIndex c)) (hturn : TurnsSign turn change) :
    LoadsIndex mk opcode turn put := by
  intro o s
  obtain ⟨hopcode, hoperand, hfaults, hload⟩ := h.loadsCell hturn o s
  refine ⟨hopcode, hoperand, hfaults, fun hindex hfield haddress => ?_⟩
  obtain ⟨c, hexec, hsign, hbyte⟩ := hload hindex hfield haddress
  exact ⟨cellToIndex c, hexec, hsign, hbyte 3 (by omega), hbyte 4 (by omega)⟩

end

/-! ## The eight loads -/

theorem fetchesInto_lda : FetchesInto .lda 8 id State.setA :=
  ⟨fun _ => rfl, fun _ => rfl, fun _ _ _ => rfl⟩

theorem fetchesInto_ldx : FetchesInto .ldx 15 id State.setX :=
  ⟨fun _ => rfl, fun _ => rfl, fun _ _ _ => rfl⟩

theorem fetchesInto_loadIndex (r : IndexReg) :
    FetchesInto (loadIndex r) (8 + regNumber r) id fun s c => s.setIndex r (cellToIndex c) := by
  cases r <;> exact ⟨fun _ => rfl, fun _ => rfl, fun _ _ _ => rfl⟩

/-- Settles O22: both fetch the field into their register as it is. -/
theorem loadCellRegistersFollowTheirRules : Obligations.LoadCellRegistersFollowTheirRules :=
  ⟨fetchesInto_lda.loadsCell turnsSign_id, fetchesInto_ldx.loadsCell turnsSign_id⟩

theorem loadsIndex_loadIndex (r : IndexReg) :
    LoadsIndex (loadIndex r) (8 + regNumber r) id fun s v => s.setIndex r v :=
  (fetchesInto_loadIndex r).loadsIndex turnsSign_id

/-- Settles O23: one lemma for the load of any index register, at each of the six. -/
theorem loadIndexRegistersFollowTheirRules : Obligations.LoadIndexRegistersFollowTheirRules :=
  ⟨loadsIndex_loadIndex .i1, loadsIndex_loadIndex .i2, loadsIndex_loadIndex .i3, loadsIndex_loadIndex .i4,
    loadsIndex_loadIndex .i5, loadsIndex_loadIndex .i6⟩

end Sys2Proof.Machine

/-! # Proofs: the negative loads (spec 42_load_negative.md)

The plan: a negative load fetches into its register as the load does, with `Cell.flipSign` in between. That this turns
the sign whatever the magnitude is one fact (`turnsSign_flipSign`), and `FetchesInto` gives the rest. -/

namespace Sys2Proof

theorem Sign.flip_eq_ite (g : Sign) : g.flip = if g = .pos then .neg else .pos := by
  cases g <;> rfl

namespace Machine

/-- The flip reads no byte of the cell, so a zero's sign is turned too. -/
theorem turnsSign_flipSign : TurnsSign (fun g => if g = .pos then .neg else .pos) Cell.flipSign :=
  fun c => ⟨Sign.flip_eq_ite c.sign, c.flipSign_byte⟩

theorem fetchesInto_ldan : FetchesInto .ldan 16 Cell.flipSign State.setA :=
  ⟨fun _ => rfl, fun _ => rfl, fun _ _ _ => rfl⟩

theorem fetchesInto_ldxn : FetchesInto .ldxn 23 Cell.flipSign State.setX :=
  ⟨fun _ => rfl, fun _ => rfl, fun _ _ _ => rfl⟩

theorem fetchesInto_loadIndexNegative (r : IndexReg) :
    FetchesInto (loadIndexNegative r) (16 + regNumber r) Cell.flipSign fun s c => s.setIndex r (cellToIndex c) := by
  cases r <;> exact ⟨fun _ => rfl, fun _ => rfl, fun _ _ _ => rfl⟩

/-- Settles O24: both fetch the field into their register with its sign flipped. -/
theorem loadNegativeCellRegistersFollowTheirRules : Obligations.LoadNegativeCellRegistersFollowTheirRules :=
  ⟨fetchesInto_ldan.loadsCell turnsSign_flipSign, fetchesInto_ldxn.loadsCell turnsSign_flipSign⟩

theorem loadsIndex_loadIndexNegative (r : IndexReg) :
    LoadsIndex (loadIndexNegative r) (16 + regNumber r) (fun g => if g = .pos then .neg else .pos)
      fun s v => s.setIndex r v :=
  (fetchesInto_loadIndexNegative r).loadsIndex turnsSign_flipSign

/-- Settles O25: one lemma for the negative load of any index register, at each of the six. -/
theorem loadNegativeIndexRegistersFollowTheirRules : Obligations.LoadNegativeIndexRegistersFollowTheirRules :=
  ⟨loadsIndex_loadIndexNegative .i1, loadsIndex_loadIndexNegative .i2, loadsIndex_loadIndexNegative .i3,
    loadsIndex_loadIndexNegative .i4, loadsIndex_loadIndexNegative .i5, loadsIndex_loadIndexNegative .i6⟩

end Machine

end Sys2Proof

/-! # Proofs: the stores (spec 43_store.md)

The plan: the faults are `faultsInOrder`, and the merged cell is read once as the sign and bytes of the statements
(`mergeField_sign`, `mergeField_byte`). What a store adds to that is the cell it merges into memory (`MergesFrom`), and
`ST1` to `ST6` are one store, of any index register widened to a cell. -/

namespace Sys2Proof.Machine

/-! ## The merged cell, in the statements' words -/

theorem mergeField_sign (o : Operand) (addr : Nat) (v : Cell) (s : State) :
    (mergeField o addr v s).sign = storedSign (s.mem.read addr) v o.left.toNat :=
  setField_sign _ _ _ _

/-- Counted from the first byte stored or from the last, byte `j` of the field is the same byte of `v`. -/
theorem mergeField_byte {o : Operand} (hfield : fieldValid o) (addr : Nat) (v : Cell) (s : State) {j : Nat}
    (hj : j < 5) :
    (mergeField o addr v s).byte j = storedByte (s.mem.read addr) v o.left.toNat o.right.toNat j := by
  obtain ⟨-, hright⟩ := hfield
  rw [mergeField, setField_byte _ _ _ _ hj, storedByte]
  by_cases hin : max o.left.toNat 1 ≤ j + 1 ∧ j + 1 ≤ o.right.toNat
  · rw [if_pos (by omega), if_pos hin]
    congr 1
    omega
  · rw [if_neg (by omega), if_neg hin]

/-! ## What a store adds to the checks -/

/-- The instructions `mk` builds have one opcode and merge the cell `source` reads off the state into the addressed cell,
at the named field. -/
structure MergesFrom (mk : Operand → Instr) (opcode : Nat) (source : State → Cell) : Prop where
  opcode_toNat : ∀ o, (mk o).opcode.toNat = opcode
  operand_eq : ∀ o, (mk o).operand = o
  actAt_eq : ∀ o s addr, actAt (mk o) s addr = s.setMem addr (mergeField o addr (source s) s)

section
variable {mk : Operand → Instr} {opcode : Nat} {source : State → Cell}

theorem MergesFrom.exec_eq (h : MergesFrom mk opcode source) {o : Operand} {s : State} (hindex : o.index.toNat ≤ 6)
    (hfield : fieldValid o) (haddress : addressInRange o s) :
    exec (mk o) s = .next ((s.setMem (effectiveAddress o s).toNat
      (mergeField o (effectiveAddress o s).toNat (source s) s)).returned .ok) := by
  have hexec := exec_of_addressInRange (i := mk o) (s := s)
  rw [h.operand_eq, h.actAt_eq] at hexec
  exact hexec hindex hfield haddress

theorem MergesFrom.storesField (h : MergesFrom mk opcode source) : StoresField mk opcode source :=
  fun o s => ⟨h.opcode_toNat o, h.operand_eq o, faultsInOrder (mk o) s, fun hindex hfield haddress =>
    ⟨_, h.exec_eq hindex hfield haddress, mergeField_sign _ _ _ _, fun _ => mergeField_byte hfield _ _ _⟩⟩

end

/-! ## The eight stores -/

theorem mergesFrom_sta : MergesFrom .sta 24 State.a :=
  ⟨fun _ => rfl, fun _ => rfl, fun _ _ _ => rfl⟩

theorem mergesFrom_stx : MergesFrom .stx 31 State.x :=
  ⟨fun _ => rfl, fun _ => rfl, fun _ _ _ => rfl⟩

theorem mergesFrom_storeIndex (r : IndexReg) :
    MergesFrom (storeIndex r) (24 + regNumber r) fun s => widened (s.readIndex r) := by
  cases r <;> exact ⟨fun _ => rfl, fun _ => rfl, fun _ _ _ => rfl⟩

/-- Settles O26: both merge their register into the addressed cell as it is. -/
theorem storeCellRegistersFollowTheirRules : Obligations.StoreCellRegistersFollowTheirRules :=
  ⟨mergesFrom_sta.storesField, mergesFrom_stx.storesField⟩

theorem storesField_storeIndex (r : IndexReg) :
    StoresField (storeIndex r) (24 + regNumber r) fun s => widened (s.readIndex r) :=
  (mergesFrom_storeIndex r).storesField

/-- Settles O27: one lemma for the store of any index register, at each of the six. -/
theorem storeIndexRegistersFollowTheirRules : Obligations.StoreIndexRegistersFollowTheirRules :=
  ⟨storesField_storeIndex .i1, storesField_storeIndex .i2, storesField_storeIndex .i3, storesField_storeIndex .i4,
    storesField_storeIndex .i5, storesField_storeIndex .i6⟩

end Sys2Proof.Machine

/-! # Proofs: status and faults (spec 60_exceptions.md)

The plan: a decoded instruction's operand is the slices of its image, so the status `exec` answers is the image's first
failing check (`exec_returns_imageStatusCode`). The valid field bytes are read off that status. A fault is
`State.raise`, which writes `response` alone, and no step reads `response` (`step_respond`). -/

namespace Sys2Proof

/-! ## The operand in an image -/

theorem operand_of_decode {c : Cell} {i : Instr} (h : decode c = .ok i) : i.operand = operandOf c := by
  unfold decode at h
  split at h <;> cases h <;> rfl

theorem operand_of_decodeImage {w : CellImage} {i : Instr} (h : decodeImage w = .ok i) :
    i.operand = operandOf (Cell.ofImage w) :=
  operand_of_decode h

theorem operandOf_ofImage_index (w : CellImage) :
    (operandOf (Cell.ofImage w)).index.toNat = w.toNat / 2 ^ 12 % 64 :=
  toNat_extractLsb'_eq_div_mod 12 6 w

theorem operandOf_ofImage_left (w : CellImage) :
    (operandOf (Cell.ofImage w)).left.toNat = w.toNat / 2 ^ 9 % 8 := by
  simp only [operandOf, unpack, Cell.ofImage, BitVec.toNat_ofNat, toNat_extractLsb'_eq_div_mod]
  omega

theorem operandOf_ofImage_right (w : CellImage) :
    (operandOf (Cell.ofImage w)).right.toNat = w.toNat / 2 ^ 6 % 8 := by
  simp only [operandOf, unpack, Cell.ofImage, BitVec.toNat_ofNat, toNat_extractLsb'_eq_div_mod]
  omega

theorem Sign.ofBit_eq_neg_iff (b : BitVec 1) : Sign.ofBit b = .neg ↔ b.toNat = 1 := by
  revert b
  decide

theorem Cell.sign_ofImage_eq_neg_iff (w : CellImage) : (Cell.ofImage w).sign = .neg ↔ w.toNat / 2 ^ 30 = 1 := by
  simp only [Cell.ofImage, Sign.ofBit_eq_neg_iff, toNat_extractLsb'_eq_div_mod]
  omega

namespace Machine

theorem signedPair_ofImage (w : CellImage) :
    signedPair (Cell.ofImage w).sign (Cell.ofImage w).b0 (Cell.ofImage w).b1 = imageAddress w := by
  have hmagnitude : 64 * ((Cell.ofImage w).b0.toNat : Int) + (Cell.ofImage w).b1.toNat =
      ((w.toNat / 2 ^ 18 % 4096 : Nat) : Int) := by
    simp only [Cell.ofImage, toNat_extractLsb'_eq_div_mod]
    omega
  simp only [signedPair, imageAddress, Cell.sign_ofImage_eq_neg_iff, hmagnitude]

theorem effectiveAddress_ofImage (w : CellImage) (s : State) :
    effectiveAddress (operandOf (Cell.ofImage w)) s = imageAddress w + displacement s (w.toNat / 2 ^ 12 % 64) := by
  rw [effectiveAddress_eq_sum, operandOf_ofImage_index]
  exact congrArg (· + _) (signedPair_ofImage w)

/-! ## The status is the first failing check -/

theorem not_fieldValid_iff (o : Operand) :
    ¬ fieldValid o ↔ o.right.toNat < o.left.toNat ∨ 5 < o.right.toNat := by
  unfold fieldValid
  omega

theorem not_addressInRange_iff (o : Operand) (s : State) :
    ¬ addressInRange o s ↔ effectiveAddress o s < 0 ∨ 3999 < effectiveAddress o s := by
  unfold addressInRange
  omega

/-- The operand checks of `imageStatusCode`, in the words of `FaultsInOrder`: each condition on the image is the failure
of one check on the operand. -/
theorem operandOf_ofImage_checks (w : CellImage) (s : State) :
    (6 < (operandOf (Cell.ofImage w)).index.toNat ↔ 6 < w.toNat / 2 ^ 12 % 64) ∧
    (¬ fieldValid (operandOf (Cell.ofImage w)) ↔
      w.toNat / 2 ^ 6 % 8 < w.toNat / 2 ^ 9 % 8 ∨ 5 < w.toNat / 2 ^ 6 % 8) ∧
    (¬ addressInRange (operandOf (Cell.ofImage w)) s ↔
      imageAddress w + displacement s (w.toNat / 2 ^ 12 % 64) < 0 ∨
      3999 < imageAddress w + displacement s (w.toNat / 2 ^ 12 % 64)) := by
  rw [not_fieldValid_iff, not_addressInRange_iff, operandOf_ofImage_index, operandOf_ofImage_left,
    operandOf_ofImage_right, effectiveAddress_ofImage]
  exact ⟨.rfl, .rfl, .rfl⟩

/-- A decoded instruction answers the status of the first check its image fails. -/
theorem exec_returns_imageStatusCode {w : CellImage} {i : Instr} (h : decodeImage w = .ok i) (s : State) :
    ∃ (t : State) (e : Status), exec i s = .next t ∧ t.response = some (.status e) ∧
      e.code.toNat = imageStatusCode w s := by
  have hopcode : ¬ (w.toNat % 64 < 8 ∨ 31 < w.toNat % 64) := by
    rw [← decodeImage_eq_error_iff, h]
    rintro ⟨r, hr⟩
    cases hr
  obtain ⟨hselector, hfield, haddress⟩ := operandOf_ofImage_checks w s
  rw [← operand_of_decodeImage h] at hselector hfield haddress
  obtain ⟨selectorFault, fieldFault, addressFault⟩ := faultsInOrder i s
  rw [imageStatusCode, if_neg hopcode]
  split
  next hs => exact ⟨_, .invalidIndexSelector, selectorFault (hselector.mpr hs), rfl, rfl⟩
  next hs =>
    have hindex := Nat.le_of_not_lt (mt hselector.mp hs)
    split
    next hf => exact ⟨_, .invalidFieldSpec, fieldFault hindex (hfield.mpr hf), rfl, rfl⟩
    next hf =>
      have hvalid := not_not.mp (mt hfield.mp hf)
      split
      next ha => exact ⟨_, .addressOutOfRange, addressFault hindex hvalid (haddress.mpr ha), rfl, rfl⟩
      next ha => exact ⟨_, .ok, exec_of_addressInRange hindex hvalid (not_not.mp (mt haddress.mp ha)), rfl, rfl⟩

/-- An `Execute` answers the status of the first check its image fails, the decoder's check of the opcode included. -/
theorem step_execute_returns_imageStatusCode {s : State} {w : CellImage} {rest : List Transaction}
    (hp : s.pending = .execute w :: rest) :
    ∃ (t : State) (e : Status), step s = .next t ∧ t.response = some (.status e) ∧
      e.code.toNat = imageStatusCode w s := by
  cases hd : decodeImage w with
  | error r =>
    have hopcode := (decodeImage_eq_error_iff w).mp ⟨r, hd⟩
    exact ⟨_, .unimplementedOpcode, step_execute_of_error hp hd, rfl, (if_pos hopcode).symm⟩
  | ok i =>
    rw [step_pending hp, perform_execute_ok _ hd]
    exact exec_returns_imageStatusCode hd (s.setPending rest)

/-- Settles O19: the codes of R121, and the first failing check of the image. -/
theorem statusIsTheFirstFailingCheck : Obligations.StatusIsTheFirstFailingCheck :=
  ⟨⟨rfl, rfl, rfl, rfl, rfl⟩, fun _ _ _ => step_execute_returns_imageStatusCode⟩

/-! ## The valid field bytes -/

theorem Status.code_eq_three_iff (e : Status) : e.code.toNat = 3 ↔ e = .invalidFieldSpec := by
  cases e <;> decide

/-- Past the opcode and the selector, code 3 is the failure of the field check. -/
theorem imageStatusCode_eq_three_iff {w : CellImage} (s : State) (hlow : 8 ≤ w.toNat % 64) (hhigh : w.toNat % 64 ≤ 31)
    (hindex : w.toNat / 2 ^ 12 % 64 ≤ 6) :
    imageStatusCode w s = 3 ↔ w.toNat / 2 ^ 6 % 8 < w.toNat / 2 ^ 9 % 8 ∨ 5 < w.toNat / 2 ^ 6 % 8 := by
  rw [imageStatusCode, if_neg (by omega), if_neg (by omega)]
  split_ifs with hfield haddress
  · exact iff_of_true rfl hfield
  · exact iff_of_false (by decide) hfield
  · exact iff_of_false (by decide) hfield

/-- The valid field bytes, listed by R52: those whose two octal digits satisfy `left ≤ right ≤ 5`. -/
theorem invalidField_iff_notMem : ∀ m < 64, (m % 8 < m / 8 ∨ 5 < m % 8) ↔
    m ∉ [0, 1, 2, 3, 4, 5, 9, 10, 11, 12, 13, 18, 19, 20, 21, 27, 28, 29, 36, 37, 45] := by
  decide

/-- Settles O9: the status is `InvalidFieldSpec` when the image's code is 3, which is so when its field byte's digits
are no valid field. -/
theorem twentyOneFieldBytesAreValid : Obligations.TwentyOneFieldBytesAreValid := by
  intro w s rest hp hlow hhigh hindex
  obtain ⟨t, e, hstep, hresponse, hcode⟩ := step_execute_returns_imageStatusCode hp
  refine ⟨t, hstep, ?_⟩
  have hright : w.toNat / 2 ^ 6 % 8 = w.toNat / 2 ^ 6 % 64 % 8 := by omega
  have hleft : w.toNat / 2 ^ 9 % 8 = w.toNat / 2 ^ 6 % 64 / 8 := by omega
  calc t.response = some (.status .invalidFieldSpec)
      ↔ e = .invalidFieldSpec := by rw [hresponse]; simp
    _ ↔ imageStatusCode w s = 3 := by rw [← e.code_eq_three_iff, hcode]
    _ ↔ w.toNat / 2 ^ 6 % 8 < w.toNat / 2 ^ 9 % 8 ∨ 5 < w.toNat / 2 ^ 6 % 8 :=
        imageStatusCode_eq_three_iff s hlow hhigh hindex
    _ ↔ _ := by
        rw [hright, hleft]
        exact invalidField_iff_notMem _ (Nat.mod_lt _ (by decide))

/-! ## No step reads the last response -/

theorem effectiveAddress_respond (o : Operand) (s : State) (p : Option Response) :
    effectiveAddress o (s.respond p) = effectiveAddress o s :=
  effectiveAddress_congr fun r _ => State.respond_readIndex s p r

theorem actAt_respond (i : Instr) (s : State) (p : Option Response) (addr : Nat) :
    actAt i (s.respond p) addr = (actAt i s addr).respond p := by
  cases i <;> rfl

theorem exec_respond (i : Instr) (s : State) (p : Option Response) : exec i (s.respond p) = exec i s := by
  have hresolve := resolve_congr (effectiveAddress_respond i.operand s p)
  rw [exec_eq i (s.respond p)]
  obtain ⟨e, he, hexec⟩ | ⟨addr, haddr, hexec⟩ := exec_cases i s
  · rw [atAddress_of_error _ (hresolve.trans he), hexec]
    rfl
  · rw [atAddress_of_ok _ (hresolve.trans haddr), hexec, actAt_respond]
    rfl

theorem readLocation_respond (s : State) (loc : Location) (p : Option Response) :
    readLocation (s.respond p) loc = readLocation s loc := by
  cases loc with
  | index r => simp [readLocation]
  | a | x | ov | ci | mem addr => rfl

theorem performRead_respond (loc : Location) (s : State) (p : Option Response) :
    performRead loc (s.respond p) = performRead loc s := by
  rw [performRead, readLocation_respond]
  rfl

theorem State.setIndex_respond (s : State) (r : IndexReg) (v : IndexCell) (p : Option Response) :
    (s.respond p).setIndex r v = (s.setIndex r v).respond p := by
  cases r <;> rfl

/-- A `HostWrite` is offered or refused whatever the response, and carries it along. -/
theorem writeLocation_respond (s : State) (loc : Location) (v : PortValue) (p : Option Response) :
    writeLocation (s.respond p) loc v = (writeLocation s loc v).map (State.respond · p) := by
  unfold writeLocation
  split
  case h_1 | h_2 | h_4 | h_7 => rfl
  case h_3 r w => exact congrArg Except.ok (State.setIndex_respond s r _ p)
  case h_5 => split <;> rfl
  case h_6 => split <;> rfl

theorem performWrite_respond (loc : Location) (v : PortValue) (s : State) (p : Option Response) :
    performWrite loc v (s.respond p) = performWrite loc v s := by
  rw [performWrite, performWrite, writeLocation_respond]
  cases writeLocation s loc v <;> rfl

theorem perform_respond (tr : Transaction) (s : State) (p : Option Response) :
    perform tr (s.respond p) = perform tr s := by
  cases tr with
  | reset => rfl
  | execute w =>
    cases hd : decodeImage w with
    | error r =>
      rw [perform_execute_error _ hd, perform_execute_error _ hd]
      rfl
    | ok i => rw [perform_execute_ok _ hd, perform_execute_ok _ hd, exec_respond]
  | hostRead loc => exact performRead_respond loc s p
  | hostWrite loc v => exact performWrite_respond loc v s p

/-- A step overwrites the response and reads nothing of it. -/
theorem step_respond (s : State) (p : Option Response) : step (s.respond p) = step s := by
  cases hp : s.pending with
  | nil =>
    rw [step_idle hp, step_idle ((s.respond_pending p).trans hp)]
    rfl
  | cons tr rest =>
    rw [step_pending hp, step_pending ((s.respond_pending p).trans hp)]
    exact perform_respond tr (s.setPending rest) p

/-! ## A fault is precise -/

theorem Status.code_bounds {e : Status} (h : e ≠ .ok) : 1 ≤ e.code.toNat ∧ e.code.toNat ≤ 4 := by
  cases e with
  | ok => exact absurd rfl h
  | unimplementedOpcode | invalidIndexSelector | invalidFieldSpec | addressOutOfRange => decide

/-- An instruction that answers a fault's status has done nothing else. -/
theorem exec_eq_raise_of_fault {i : Instr} {s t : State} {e : Status} (h : exec i s = .next t)
    (hresponse : t.response = some (.status e)) (he : e ≠ .ok) : t = s.raise e := by
  obtain ⟨e', -, hexec⟩ | ⟨addr, -, hexec⟩ := exec_cases i s <;> cases hexec.symm.trans h <;> cases hresponse
  · rfl
  · exact absurd rfl he

/-- An `Execute` that answers a fault's status has done nothing but leave the pending list. -/
theorem step_execute_eq_raise_of_fault {s t : State} {w : CellImage} {rest : List Transaction} {e : Status}
    (hp : s.pending = .execute w :: rest) (h : step s = .next t) (hresponse : t.response = some (.status e))
    (he : e ≠ .ok) : t = (s.setPending rest).raise e := by
  rw [step_pending hp] at h
  cases hd : decodeImage w with
  | error r =>
    cases (perform_execute_error _ hd).symm.trans h
    cases hresponse
    rfl
  | ok i => exact exec_eq_raise_of_fault ((perform_execute_ok _ hd).symm.trans h) hresponse he

/-- Settles O20: a fault is `State.raise`, and the next step does not read the response it leaves. -/
theorem faultLeavesTheStateUnchanged : Obligations.FaultLeavesTheStateUnchanged := by
  intro s t w rest e hp hstep hresponse he
  obtain ⟨hlow, hhigh⟩ := Status.code_bounds he
  obtain rfl := step_execute_eq_raise_of_fault hp hstep hresponse he
  exact ⟨hlow, hhigh, rfl, step_respond (s.setPending rest) _⟩

end Machine

end Sys2Proof

/-! # Proofs: instructions indexed by their own register (spec 70_reset_and_hazards.md)

The plan: a selector that names a register has that register's value as its displacement
(`effectiveAddress_of_names`), so the effective address is a sum over the state before the instruction. The rules of the
index loads and stores (`loadsIndex_loadIndex`, `loadsIndex_loadIndexNegative`, `storesField_storeIndex`) hold of every
operand and give what happens at that address. -/

namespace Sys2Proof.Machine

theorem regNumber_le_six (r : IndexReg) : regNumber r ≤ 6 := by
  cases r <;> decide

theorem effectiveAddress_of_names {o : Operand} {r : IndexReg} (h : o.index.toNat = regNumber r) (s : State) :
    effectiveAddress o s = signedPair o.sign o.b0 o.b1 +
      signedPair (s.readIndex r).sign (s.readIndex r).b0 (s.readIndex r).b1 := by
  rw [effectiveAddress_eq_sum, h, displacement_regNumber]

theorem turnedSign_ne (g : Sign) : (if g = .pos then Sign.neg else .pos) ≠ g := by
  cases g <;> decide

/-- Settles O47: the named register's old value is the displacement, and the rules of the load, the negative load and the
store of an index register make no exception of an operand that names it. -/
theorem indexedAccessUsesTheOldIndex : Obligations.IndexedAccessUsesTheOldIndex := by
  intro r o s hnames hfield e he hlow hhigh
  obtain rfl : effectiveAddress o s = e := (effectiveAddress_of_names hnames s).trans he.symm
  have hindex : o.index.toNat ≤ 6 := hnames.trans_le (regNumber_le_six r)
  have haddress : addressInRange o s := ⟨hlow, hhigh⟩
  obtain ⟨-, -, -, hload⟩ := loadsIndex_loadIndex r o s
  obtain ⟨-, -, -, hloadNegative⟩ := loadsIndex_loadIndexNegative r o s
  obtain ⟨-, -, -, hstore⟩ := storesField_storeIndex r o s
  obtain ⟨v, hexec, hsign, hbytes⟩ := hloadNegative hindex hfield haddress
  exact ⟨hload hindex hfield haddress, ⟨v, hexec, hsign ▸ turnedSign_ne _, hbytes⟩, hstore hindex hfield haddress⟩

end Sys2Proof.Machine

/-! # Proofs: the encoding and the decoder undo each other (spec 30_encoding.md)

The plan: both round trips are made of the image's bijection and one round trip of the decoder on cells each
(`decode_encode`, `encode_of_decode`). A legal image is then a free choice of its six parts, three of them from a
restricted range (`legalImageEquiv`), and the count is the product of the choices. -/

namespace Sys2Proof

/-! ## The round trips -/

/-- Settles O2: the image gives the encoded cell back, and the decoder the instruction. -/
theorem decodeOfEncodeIsTheInstruction : Obligations.DecodeOfEncodeIsTheInstruction := by
  intro i
  rw [decodeImage, encodeImage, Cell.ofImage_toImage, decode_encode]

theorem pack_unpack (m : Byte) : pack (unpack m).1 (unpack m).2 = m := by
  revert m
  decide

/-- The decoder keeps every byte of the cell: the opcode in the constructor, the others in the operand. -/
theorem encode_of_decode {c : Cell} {i : Instr} (h : decode c = .ok i) : encode i = c := by
  rw [encode, operand_of_decode h, Machine.opcode_of_decode h]
  simp only [operandOf, pack_unpack]

/-- Settles O3: encoding gives the decoded cell back, and that cell's image is the image. -/
theorem encodeOfDecodeIsTheImage : Obligations.EncodeOfDecodeIsTheImage := by
  intro w i h
  rw [encodeImage, encode_of_decode h, Cell.toImage_ofImage]

/-- Settles O1: each word by running the decoder. -/
theorem writtenWordsDecode : Obligations.WrittenWordsDecode := by
  unfold Obligations.WrittenWordsDecode
  decide

theorem Cell.sign_ofImage (w : CellImage) :
    (Cell.ofImage w).sign = if w.toNat / 2 ^ 30 = 1 then .neg else .pos := by
  have hneg := Cell.sign_ofImage_eq_neg_iff w
  split
  next hbit => exact hneg.mpr hbit
  next hbit =>
    cases hsign : (Cell.ofImage w).sign with
    | pos => rfl
    | neg => exact absurd (hneg.mp hsign) hbit

/-- Settles O6: the operand is read off the image's cell, whose bytes are slices of the image. -/
theorem instructionFieldsAreImageSlices : Obligations.InstructionFieldsAreImageSlices := by
  intro w i h
  rw [operand_of_decodeImage h]
  refine ⟨Cell.sign_ofImage w, ?_, operandOf_ofImage_index w, operandOf_ofImage_left w, operandOf_ofImage_right w,
    Machine.opcode_of_decodeImage h⟩
  simp only [operandOf, Cell.ofImage, toNat_extractLsb'_eq_div_mod]
  omega

/-! ## Counting the legal images -/

/-- The image of a legal instruction cell (R58). -/
def LegalImage (w : CellImage) : Prop :=
  ∃ i, decodeImage w = .ok i ∧ i.wellFormed = true

/-- A byte that is an implemented opcode (R54). -/
abbrev OpcodeByte := { b : Byte // 8 ≤ b.toNat ∧ b.toNat ≤ 31 }

/-- A byte that is a selector of no register or of one of the six (R51). -/
abbrev SelectorByte := { b : Byte // b.toNat ≤ 6 }

/-- A byte that packs a valid field (R52, R71). -/
abbrev FieldByte := { b : Byte // (unpack b).1.toNat ≤ (unpack b).2.toNat ∧ (unpack b).2.toNat ≤ 5 }

/-- An image is legal when its cell's last three bytes are, each by itself. -/
theorem legalImage_iff (w : CellImage) :
    LegalImage w ↔ (Cell.ofImage w).b2.toNat ≤ 6 ∧
      ((unpack (Cell.ofImage w).b3).1.toNat ≤ (unpack (Cell.ofImage w).b3).2.toNat ∧
        (unpack (Cell.ofImage w).b3).2.toNat ≤ 5) ∧
      8 ≤ (Cell.ofImage w).b4.toNat ∧ (Cell.ofImage w).b4.toNat ≤ 31 := by
  constructor
  · rintro ⟨i, hdecode, hwf⟩
    obtain ⟨hindex, hfield⟩ := i.wellFormed_iff.mp hwf
    rw [operand_of_decodeImage hdecode] at hindex hfield
    have hopcode := i.opcode_implemented
    rw [Machine.opcode_of_decode hdecode] at hopcode
    exact ⟨hindex, hfield, hopcode⟩
  · rintro ⟨hindex, hfield, hlow, hhigh⟩
    obtain ⟨i, hdecode⟩ := exists_decode_eq_ok hlow hhigh
    refine ⟨i, hdecode, i.wellFormed_iff.mpr ?_⟩
    rw [operand_of_decode hdecode]
    exact ⟨hindex, hfield⟩

/-- A legal image is a sign, two address bytes, a selector, a valid field and an implemented opcode, each chosen
freely. -/
def legalImageEquiv :
    { w : CellImage // LegalImage w } ≃ Sign × Byte × Byte × SelectorByte × FieldByte × OpcodeByte where
  toFun
    | ⟨w, h⟩ =>
      let c := Cell.ofImage w
      have legal := (legalImage_iff w).mp h
      (c.sign, c.b0, c.b1, ⟨c.b2, legal.1⟩, ⟨c.b3, legal.2.1⟩, ⟨c.b4, legal.2.2⟩)
  invFun
    | (sign, b0, b1, ⟨b2, hselector⟩, ⟨b3, hfield⟩, ⟨b4, hopcode⟩) =>
      let c : Cell := ⟨sign, b0, b1, b2, b3, b4⟩
      ⟨c.toImage, (legalImage_iff c.toImage).mpr (by
        rw [c.ofImage_toImage]
        exact ⟨hselector, hfield, hopcode⟩)⟩
  left_inv w := Subtype.ext (Cell.toImage_ofImage w)
  right_inv p := by simp only [Cell.ofImage_toImage]

theorem card_sign : Nat.card Sign = 2 := by
  rw [Nat.card_congr (β := BitVec 1) ⟨Sign.bit, Sign.ofBit, Sign.ofBit_bit, Sign.bit_ofBit⟩,
    Nat.card_congr BitVec.equivFin.toEquiv, Nat.card_fin, pow_one]

theorem card_byte : Nat.card Byte = 64 := by
  rw [Nat.card_congr BitVec.equivFin.toEquiv, Nat.card_fin]
  rfl

theorem card_selectorByte : Nat.card SelectorByte = 7 := by
  rw [Nat.card_eq_fintype_card]
  rfl

/-- The 21 valid fields of R52. -/
theorem card_fieldByte : Nat.card FieldByte = 21 := by
  rw [Nat.card_eq_fintype_card]
  rfl

theorem card_opcodeByte : Nat.card OpcodeByte = 24 := by
  rw [Nat.card_eq_fintype_card]
  rfl

/-- Settles O8: the product of the choices of a legal image's parts. -/
theorem legalInstructionCount : Obligations.LegalInstructionCount := by
  calc Nat.card { w : CellImage // LegalImage w }
      = Nat.card (Sign × Byte × Byte × SelectorByte × FieldByte × OpcodeByte) := Nat.card_congr legalImageEquiv
    _ = 2 * (64 * (64 * (7 * (21 * 24)))) := by
        simp only [Nat.card_prod, card_sign, card_byte, card_selectorByte, card_fieldByte, card_opcodeByte]
    _ = 28901376 := by norm_num

end Sys2Proof

/-! # Proofs: memory (spec 20_memory.md)

The plan: what the latest write to an address left is found there, whatever the list. In a rising list an address is
found exactly where it is listed (`lookupCells_eq_some_iff`), so the cells found determine the list. A step leaves
memory as it was, starts it anew, or writes one address that exists (`step_mem_cases`), and each of the three keeps the
canonical form. -/

namespace Sys2Proof.Machine

/-! ## Reads after writes -/

theorem lookupCells_of_unlisted {cells : List (Nat × Cell)} {a : Nat} (h : ∀ p ∈ cells, p.1 ≠ a) :
    lookupCells cells a = none := by
  induction cells with
  | nil => rfl
  | cons p rest ih =>
    rw [lookupCells, if_neg (h p List.mem_cons_self)]
    exact ih fun q hq => h q (List.mem_cons_of_mem p hq)

theorem Memory.read_of_unlisted {m : Memory} {a : Nat} (h : ∀ p ∈ m.cells, p.1 ≠ a) :
    m.read a = Config.memInit m.epoch a := by
  rw [Memory.read, Memory.lookup, lookupCells_of_unlisted h, Option.getD_none]

theorem insertCells_idem (cells : List (Nat × Cell)) (a : Nat) (v : Cell) :
    insertCells (insertCells cells a v) a v = insertCells cells a v := by
  induction cells with
  | nil => simp [insertCells]
  | cons p rest ih =>
    by_cases hlt : a < p.1
    · simp [insertCells, hlt]
    · by_cases heq : a = p.1
      · simp [insertCells, heq]
      · simp [insertCells, hlt, heq, ih]

theorem Memory.write_write_same (m : Memory) (a : Nat) (v : Cell) : (m.write a v).write a v = m.write a v :=
  congrArg (Memory.mk m.epoch) (insertCells_idem m.cells a v)

/-- Settles O36: one lemma for each of the three. -/
theorem readReturnsTheLatestWrite : Obligations.ReadReturnsTheLatestWrite :=
  ⟨Memory.read_write, fun _ _ => Memory.read_of_unlisted, Memory.write_write_same⟩

/-! ## A canonical memory is its written values -/

/-- In a rising list the value found for an address is the one listed for it. -/
theorem lookupCells_eq_some_iff {cells : List (Nat × Cell)} (h : cells.Pairwise fun p q => p.1 < q.1) (a : Nat)
    (v : Cell) : lookupCells cells a = some v ↔ (a, v) ∈ cells := by
  induction cells with
  | nil => simp [lookupCells, Memory.unlisted]
  | cons p rest ih =>
    obtain ⟨k, w⟩ := p
    obtain ⟨hhead, hrest⟩ := List.pairwise_cons.mp h
    by_cases hk : k = a
    · subst k
      have hnot : (a, v) ∉ rest := fun hmem => lt_irrefl a (hhead _ hmem)
      simp [lookupCells, hnot, eq_comm]
    · simp [lookupCells, hk, Ne.symm hk, ih hrest]

/-- Settles O37: the same values found are the same entries listed, and a rising list is determined by its entries. -/
theorem equalMemoriesAreEqualData : Obligations.EqualMemoriesAreEqualData := by
  rintro ⟨e, cells⟩ ⟨e', cells'⟩ ⟨hrising, -⟩ ⟨hrising', -⟩ hepoch hlookup
  have hmem (p : Nat × Cell) : p ∈ cells ↔ p ∈ cells' := by
    rw [← lookupCells_eq_some_iff hrising, ← lookupCells_eq_some_iff hrising']
    exact Eq.congr_left (hlookup p.1)
  have hnodup : cells.Nodup := hrising.imp fun hlt heq => hlt.ne (congrArg Prod.fst heq)
  have hnodup' : cells'.Nodup := hrising'.imp fun hlt heq => hlt.ne (congrArg Prod.fst heq)
  have hcells : cells = cells' :=
    ((List.perm_ext_iff_of_nodup hnodup hnodup').mpr hmem).eq_of_pairwise
      (fun p q _ _ hpq hqp => absurd hqp hpq.not_gt) hrising hrising'
  exact congrArg₂ Memory.mk hepoch hcells

/-! ## What a step does to memory -/

/-- An instruction leaves memory as it was, or writes one address that exists. -/
theorem exec_mem_cases {i : Instr} {s t : State} (h : exec i s = .next t) :
    t.mem = s.mem ∨ ∃ addr v, addr < Config.memCells ∧ t.mem = s.mem.write addr v := by
  obtain ⟨e, -, hexec⟩ | ⟨addr, haddr, hexec⟩ := exec_cases i s <;> cases hexec.symm.trans h
  · exact .inl rfl
  · obtain ⟨-, -, -, hlt⟩ := resolve_ok haddr
    exact (actAt_mem i s addr).imp_right fun ⟨v, hmem⟩ => ⟨addr, v, hlt, hmem⟩

/-- So does a `HostWrite`. -/
theorem writeLocation_mem_cases {s s' : State} {loc : Location} {v : PortValue} (h : writeLocation s loc v = .ok s') :
    s'.mem = s.mem ∨ ∃ addr c, addr < Config.memCells ∧ s'.mem = s.mem.write addr c := by
  obtain ⟨w, -, -, rfl⟩ | ⟨w, -, -, rfl⟩ | ⟨q, w, -, -, rfl⟩ | ⟨w, -, -, rfl⟩ | ⟨w, c, -, -, -, rfl⟩ |
    ⟨addr, w, -, -, haddr, rfl⟩ := writeLocation_cases h
  case inr.inr.inl => exact .inl (State.setIndex_mem s q _)
  case inr.inr.inr.inr.inr => exact .inr ⟨addr, _, haddr, rfl⟩
  all_goals exact .inl rfl

/-- A step leaves memory as it was, or writes one address that exists, or starts a new epoch with nothing written. -/
theorem step_mem_cases {s t : State} (h : step s = .next t) :
    t.mem = s.mem ∨ (∃ addr v, addr < Config.memCells ∧ t.mem = s.mem.write addr v) ∨ t.mem = s.mem.reinit := by
  cases hp : s.pending with
  | nil =>
    cases (step_idle hp).symm.trans h
    exact .inl rfl
  | cons tr rest =>
    have hperform : perform tr (s.setPending rest) = .next t := (step_pending hp).symm.trans h
    cases tr with
    | reset =>
      cases hperform
      exact .inr (.inr rfl)
    | execute w =>
      cases hd : decodeImage w with
      | ok i => exact (exec_mem_cases ((perform_execute_ok _ hd).symm.trans hperform)).imp_right .inl
      | error r =>
        cases (perform_execute_error _ hd).symm.trans hperform
        exact .inl rfl
    | hostRead loc =>
      simp only [perform, performRead] at hperform
      split at hperform <;> cases hperform
      exact .inl rfl
    | hostWrite loc v =>
      simp only [perform, performWrite] at hperform
      split at hperform <;> cases hperform
      next s' hwrite => exact (writeLocation_mem_cases hwrite).imp_right .inl

/-- Settles O34: the canonical form is kept by each thing a step can do to memory. -/
theorem stepKeepsMemoryCanonical : Obligations.StepKeepsMemoryCanonical := by
  intro s t hinv h
  unfold State.Inv at hinv ⊢
  obtain hmem | ⟨addr, v, haddr, hmem⟩ | hmem := step_mem_cases h <;> rw [hmem]
  · exact hinv
  · exact Memory.write_wf v hinv haddr
  · exact Memory.reinit_wf s.mem

/-- Settles O35: nothing is listed after reset. -/
theorem resetMemoryIsCanonical : Obligations.ResetMemoryIsCanonical :=
  reset_mem_wf

/-! ## What changes a cell -/

theorem destination_eq_memory_iff (i : Instr) :
    destination i = .memory ↔ 24 ≤ i.opcode.toNat ∧ i.opcode.toNat ≤ 31 := by
  cases i <;> simp [destination, Instr.opcode]

/-- An instruction that changes a memory cell is a store at that cell's address, and it completes. -/
theorem exec_changes_cell {i : Instr} {s t : State} {a : Nat} (h : exec i s = .next t)
    (hne : t.mem.read a ≠ s.mem.read a) :
    destination i = .memory ∧ effectiveAddress i.operand s = a ∧ t.response = some (.status .ok) := by
  obtain ⟨-, -, -, -, hdestination, haddress, hfault, -⟩ := eachOpcodeTouchesOnlyWhatItNames i s t h
  refine ⟨?_, ?_, ?_⟩ <;> by_contra hcontra
  · exact hne (hdestination hcontra a)
  · exact hne (haddress a (Ne.symm hcontra))
  · obtain ⟨-, -, -, hsame⟩ := hfault hcontra
    exact hne (hsame a)

theorem observes_mem (a : Nat) : Observes (fun s => s.mem.read a) (.mem a) where
  respond _ _ := rfl
  setPending _ _ := rfl
  write {s s' other v} h hne := by
    obtain ⟨w, -, -, rfl⟩ | ⟨w, -, -, rfl⟩ | ⟨q, w, -, -, rfl⟩ | ⟨w, -, -, rfl⟩ | ⟨w, c, -, -, -, rfl⟩ |
      ⟨addr, w, rfl, -, -, rfl⟩ := writeLocation_cases h
    case inr.inr.inl => simp
    case inr.inr.inr.inr.inr => exact Memory.read_write_of_ne s.mem (fun ha => hne (by rw [ha])) _
    all_goals rfl

/-- Settles O33: of the three ways a cell can change, the instruction is a store at that address that completes. -/
theorem memoryChangesOnlyByStoreOrHost : Obligations.MemoryChangesOnlyByStoreOrHost := by
  intro s t a h hne
  obtain ⟨rest, hreset | hwrite | ⟨w, i, hp, hd, hexec⟩⟩ := (observes_mem a).step_cases h hne
  · exact ⟨rest, .inl hreset⟩
  · exact ⟨rest, .inr (.inl hwrite)⟩
  · obtain ⟨hdestination, haddress, hok⟩ := exec_changes_cell hexec hne
    obtain ⟨hlow, hhigh⟩ := (destination_eq_memory_iff i).mp hdestination
    rw [opcode_of_decodeImage hd] at hlow hhigh
    exact ⟨rest, .inr (.inr ⟨w, i, hp, hd, hlow, hhigh, haddress, hok⟩)⟩

end Sys2Proof.Machine

/-! # Proofs: transactions (spec 10_state.md section 8)

The plan: an offered transaction is performed and leaves the pending list alone, any other is refused
(`perform_of_offered`, `perform_of_not_offered`). The run is an induction on the number of steps. -/

namespace Sys2Proof.Machine

/-! ## What is offered -/

/-- Every instruction answers a next state with a status; it leaves the pending list to the host. -/
theorem exec_completes (i : Instr) (s : State) :
    ∃ (t : State) (e : Status), exec i s = .next t ∧ t.response = some (.status e) ∧ t.pending = s.pending := by
  obtain ⟨e, -, hexec⟩ | ⟨addr, -, hexec⟩ := exec_cases i s
  · exact ⟨_, e, hexec, rfl, rfl⟩
  · obtain ⟨-, -, hpending⟩ := actAt_frame i s addr
    exact ⟨_, .ok, hexec, rfl, hpending⟩

/-- Settles O11: an instruction raises a fault or completes. -/
theorem everyInstructionCompletes : Obligations.EveryInstructionCompletes := fun i s =>
  let ⟨t, e, hexec, hresponse, _⟩ := exec_completes i s
  ⟨t, e, hexec, hresponse⟩

theorem readLocation_of_offered {loc : Location} (h : (Transaction.hostRead loc).offered = true) (s : State) :
    ∃ v, readLocation s loc = .ok v := by
  cases loc with
  | mem addr => exact ⟨_, readLocation_mem_of_le s (of_decide_eq_true h)⟩
  | a | x | index r | ov | ci => exact ⟨_, rfl⟩

theorem readLocation_of_not_offered {loc : Location} (h : (Transaction.hostRead loc).offered = false) (s : State) :
    ∃ r, readLocation s loc = .error r := by
  cases loc with
  | mem addr => exact ⟨_, readLocation_mem_of_gt s (Nat.lt_of_not_le (of_decide_eq_false h))⟩
  | a | x | index r | ov | ci => cases h

/-- A 2-bit image is unused, or the image of the value it stands for. -/
theorem Comparison.toImage_of_ne_unused {w : BitVec 2} (h : w ≠ 0b11#2) :
    ∃ c, Comparison.ofImage w = some c ∧ c.toImage = w := by
  have himage : ∀ w : BitVec 2, w = 0b00#2 ∨ w = 0b01#2 ∨ w = 0b10#2 ∨ w = 0b11#2 := by decide
  obtain rfl | rfl | rfl | rfl := himage w
  · exact ⟨.less, rfl, rfl⟩
  · exact ⟨.equal, rfl, rfl⟩
  · exact ⟨.greater, rfl, rfl⟩
  · exact absurd rfl h

@[simp] theorem Overflow.toImage_ofImage (w : BitVec 1) : (Overflow.ofImage w).toImage = w := by
  revert w
  decide

/-- An offered `HostWrite` gives its location the value, which reads back. -/
theorem writeLocation_of_offered {loc : Location} {v : PortValue} (h : (Transaction.hostWrite loc v).offered = true)
    (s : State) : ∃ s', writeLocation s loc v = .ok s' ∧ readLocation s' loc = .ok v := by
  cases loc <;> cases v
  case a.cell w => exact ⟨_, rfl, by simp [readLocation, Cell.toImage_ofImage]⟩
  case x.cell w => exact ⟨_, rfl, by simp [readLocation, Cell.toImage_ofImage]⟩
  case index.index r w => exact ⟨_, rfl, by simp [readLocation, IndexCell.toImage_ofImage]⟩
  case ov.ov w => exact ⟨_, rfl, by simp [readLocation]⟩
  case ci.ci w =>
    obtain ⟨c, hc, hw⟩ := Comparison.toImage_of_ne_unused (of_decide_eq_true h)
    exact ⟨s.setCi c, by simp [writeLocation, hc], by simp [readLocation, hw]⟩
  case mem.cell addr w =>
    have haddr : addr ≤ 3999 := of_decide_eq_true h
    refine ⟨s.setMem addr (Cell.ofImage w), if_pos (Nat.lt_succ_of_le haddr), ?_⟩
    rw [readLocation_mem_of_le _ haddr, State.setMem_mem, Memory.read_write, if_pos rfl, Cell.toImage_ofImage]
  all_goals cases h

/-- A `HostWrite` that is not offered is refused: another type, the unused image of `CI`, or no such location. -/
theorem writeLocation_of_not_offered {loc : Location} {v : PortValue}
    (h : (Transaction.hostWrite loc v).offered = false) (s : State) : ∃ r, writeLocation s loc v = .error r := by
  cases hwrite : writeLocation s loc v with
  | error r => exact ⟨r, rfl⟩
  | ok s' =>
    obtain ⟨w, rfl, rfl, -⟩ | ⟨w, rfl, rfl, -⟩ | ⟨r, w, rfl, rfl, -⟩ | ⟨w, rfl, rfl, -⟩ | ⟨w, c, rfl, rfl, hc, -⟩ |
      ⟨addr, w, rfl, rfl, haddr, -⟩ := writeLocation_cases hwrite
    case inr.inr.inr.inr.inl =>
      obtain rfl : w = 0b11#2 := not_not.mp (of_decide_eq_false h)
      cases hc
    case inr.inr.inr.inr.inr => exact absurd (Nat.le_of_lt_succ haddr) (of_decide_eq_false h)
    all_goals cases h

theorem writeLocation_pending {s s' : State} {loc : Location} {v : PortValue} (h : writeLocation s loc v = .ok s') :
    s'.pending = s.pending := by
  obtain ⟨w, -, -, rfl⟩ | ⟨w, -, -, rfl⟩ | ⟨q, w, -, -, rfl⟩ | ⟨w, -, -, rfl⟩ | ⟨w, c, -, -, -, rfl⟩ |
    ⟨addr, w, -, -, -, rfl⟩ := writeLocation_cases h
  case inr.inr.inl => exact State.setIndex_pending s q _
  all_goals rfl

/-! ## What performing a transaction answers -/

theorem perform_hostWrite_of_ok {s s' : State} {loc : Location} {v : PortValue} (h : writeLocation s loc v = .ok s') :
    perform (.hostWrite loc v) s = .next (s'.respond none) := by
  rw [perform, performWrite, h]

/-- An offered transaction is performed, and what the host will issue next stays. -/
theorem perform_of_offered {tr : Transaction} (h : tr.offered = true) (s : State) :
    ∃ t, perform tr s = .next t ∧ t.pending = s.pending := by
  cases tr with
  | reset => exact ⟨_, rfl, rfl⟩
  | execute w =>
    cases hd : decodeImage w with
    | error r => exact ⟨_, perform_execute_error s hd, rfl⟩
    | ok i =>
      obtain ⟨t, e, hexec, -, hpending⟩ := exec_completes i s
      exact ⟨t, (perform_execute_ok s hd).trans hexec, hpending⟩
  | hostRead loc =>
    obtain ⟨v, hread⟩ := readLocation_of_offered h s
    exact ⟨s.respond (some (.value v)), by rw [perform, performRead, hread], rfl⟩
  | hostWrite loc v =>
    obtain ⟨s', hwrite, -⟩ := writeLocation_of_offered h s
    have hpending := writeLocation_pending hwrite
    exact ⟨s'.respond none, perform_hostWrite_of_ok hwrite, hpending⟩

/-- A transaction that is not offered is refused. -/
theorem perform_of_not_offered {tr : Transaction} (h : tr.offered = false) (s : State) :
    ∃ r, perform tr s = .refused r := by
  cases tr with
  | reset | execute w => cases h
  | hostRead loc =>
    obtain ⟨r, hread⟩ := readLocation_of_not_offered h s
    exact ⟨r, by rw [perform, performRead, hread]⟩
  | hostWrite loc v =>
    obtain ⟨r, hwrite⟩ := writeLocation_of_not_offered h s
    exact ⟨r, by rw [perform, performWrite, hwrite]⟩

/-- A step whose transaction, if there is one, is offered goes through and takes it from the pending list. -/
theorem step_of_offered {s : State} (h : ∀ tr ∈ s.pending.head?, tr.offered = true) :
    ∃ t, step s = .next t ∧ t.pending = s.pending.tail := by
  cases hp : s.pending with
  | nil => exact ⟨s.idle, step_idle hp, hp⟩
  | cons tr rest =>
    rw [step_pending hp]
    exact perform_of_offered (h tr (by rw [hp]; rfl)) (s.setPending rest)

/-- Settles O12: a step is refused at a transaction that is not offered, and goes through otherwise. -/
theorem onlyUnofferedTransactionsAreRefused : Obligations.OnlyUnofferedTransactionsAreRefused := by
  refine fun s => ⟨⟨fun ⟨r, hrefused⟩ => ?_, fun ⟨tr, rest, hp, hoffered⟩ => ?_⟩, fun r => nomatch r⟩
  · cases hp : s.pending with
    | nil => cases (step_idle hp).symm.trans hrefused
    | cons tr rest =>
      refine ⟨tr, rest, rfl, Bool.eq_false_iff.mpr fun hoffered => ?_⟩
      obtain ⟨t, hperform, -⟩ := perform_of_offered hoffered (s.setPending rest)
      cases ((step_pending hp).trans hperform).symm.trans hrefused
  · rw [step_pending hp]
    exact perform_of_not_offered hoffered (s.setPending rest)

/-- Settles O13, by induction on the number of steps: each goes through and leaves the tail of the pending list. -/
theorem offeredRunsAlwaysComplete : Obligations.OfferedRunsAlwaysComplete := by
  intro n
  induction n with
  | zero => exact fun s _ => ⟨s, run_zero s, rfl⟩
  | succ n ih =>
    intro s hoffered
    obtain ⟨t, hstep, hpending⟩ := step_of_offered fun tr htr => hoffered tr (List.mem_of_mem_head? htr)
    obtain ⟨u, hrun, hdrop⟩ := ih t fun tr htr => hoffered tr (List.mem_of_mem_tail (hpending ▸ htr))
    exact ⟨u, (run_succ n hstep).trans hrun, by rw [hdrop, hpending, List.drop_tail]⟩

/-! ## What each transaction does -/

/-- Settles O10: the step performs the `Execute`, which is the instruction its image decodes to. -/
theorem stepRunsTheDecodedInstruction : Obligations.StepRunsTheDecodedInstruction := fun s _ rest _ hp hd =>
  (step_pending hp).trans (perform_execute_ok (s.setPending rest) hd)

/-- Settles O14: the step with nothing pending writes the response alone. -/
theorem idleBlockHoldsItsState : Obligations.IdleBlockHoldsItsState := fun _ =>
  step_idle

/-- Settles O15: the registers and flags are those of the reset state, and no cell of the new epoch is written. -/
theorem resetTransactionRestoresResetValues : Obligations.ResetTransactionRestoresResetValues := fun s rest hp =>
  ⟨performReset (s.setPending rest), step_pending hp, rfl, rfl, reset_readIndex, rfl, rfl, fun _ => rfl, rfl, rfl, rfl⟩

/-- A `HostWrite` changes what the host reads at no other location. -/
theorem readLocation_of_writeLocation_of_ne {s s' : State} {loc other : Location} {v : PortValue}
    (h : writeLocation s loc v = .ok s') (hne : other ≠ loc) : readLocation s' other = readLocation s other := by
  obtain ⟨ha, hx, hindex, hov, hci⟩ := writeLocation_frame h
  cases other with
  | a => rw [readLocation, ha hne.symm, readLocation]
  | x => rw [readLocation, hx hne.symm, readLocation]
  | index r => rw [readLocation, hindex r hne.symm, readLocation]
  | ov => rw [readLocation, hov hne.symm, readLocation]
  | ci => rw [readLocation, hci hne.symm, readLocation]
  | mem addr => rw [readLocation, (observes_mem addr).write h hne.symm, readLocation]

/-- Settles O18: an offered `HostWrite` reads back and keeps every other location, any other is refused. -/
theorem hostWriteReplacesOneLocation : Obligations.HostWriteReplacesOneLocation := by
  intro s rest loc v hp
  rw [step_pending hp]
  refine ⟨fun hoffered => ?_, fun hoffered => perform_of_not_offered hoffered (s.setPending rest)⟩
  obtain ⟨s', hwrite, hread⟩ := writeLocation_of_offered hoffered (s.setPending rest)
  have hpending := writeLocation_pending hwrite
  refine ⟨s'.respond none, perform_hostWrite_of_ok hwrite, ?_, fun other hne => ?_, hpending, rfl⟩
  · rw [readLocation_respond, hread]
  · rw [readLocation_respond, readLocation_of_writeLocation_of_ne hwrite hne, readLocation_setPending]

end Sys2Proof.Machine

/-! # Proofs: sequences of transactions (spec 20_memory.md section 7, 60_exceptions.md section 4)

The plan: the laws of the field unit say what a fetch through the field of the last merge answers, and the cell merged
is the one the next transaction reads (`Memory.read_write`). A fault leaves everything its status depends on, so the
same image has the same status again. -/

namespace Sys2Proof

/-! ## The laws of the field unit -/

theorem setField_getField (c : Cell) (left right : Nat) :
    setField c left right (getField c left right) = c := by
  refine Cell.eq_of_bytes ?_ fun j hj => ?_
  · rw [setField_sign, getField_sign]
    split <;> rfl
  · rw [setField_byte _ _ _ _ hj]
    split
    next hin =>
      rw [getField_byte _ _ _ (by omega), if_neg (by omega)]
      congr 1
      omega
    next hout => rfl

theorem getField_setField_sign (c v : Cell) (left right : Nat) :
    (getField (setField c left right v) left right).sign = if left = 0 then v.sign else .pos := by
  rw [getField_sign, setField_sign]
  split <;> rfl

theorem getField_setField_byte (c v : Cell) {left right j : Nat} (hright : right ≤ 5) (hj : j < 5) :
    (getField (setField c left right v) left right).byte j =
      if j < 5 - (right + 1 - max left 1) then 0#6 else v.byte j := by
  rw [getField_byte _ _ _ hj]
  split
  next hzero => rfl
  next hfield =>
    rw [setField_byte _ _ _ _ (by omega), if_pos (by omega)]
    congr 1
    omega

/-- Settles O40: byte by byte, the field's bytes go to the low end and back. -/
theorem fieldUnitLaws : Obligations.FieldUnitLaws := fun c v left right _ hright =>
  ⟨setField_getField c left right, getField_setField_sign c v left right, fun _ => getField_setField_byte c v hright⟩

namespace Machine

/-! ## A store, and then a read of its cell -/

/-- No address depends on memory or on the response. -/
theorem effectiveAddress_setMem_returned (o : Operand) (s : State) (a : Nat) (v : Cell) (e : Status) :
    effectiveAddress o ((s.setMem a v).returned e) = effectiveAddress o s :=
  (effectiveAddress_respond o _ _).trans (effectiveAddress_setMem o s a v)

theorem mem_read_setMem_returned (s : State) (a : Nat) (v : Cell) (e : Status) :
    ((s.setMem a v).returned e).mem.read a = v :=
  (Memory.read_write s.mem a a v).trans (if_pos rfl)

/-- Settles O46: the store leaves the address as it was, so the load fetches the field just merged. -/
theorem loadAfterStoreReturnsTheStoredField : Obligations.LoadAfterStoreReturnsTheStoredField := by
  intro o s hindex hfield haddress
  have hsame := effectiveAddress_setMem_returned o s (effectiveAddress o s).toNat
    (mergeField o (effectiveAddress o s).toNat s.a s) .ok
  have hload := fetchesInto_ldx.exec_eq hindex hfield (by rwa [addressInRange, hsame])
  rw [hsame, fetchField, mem_read_setMem_returned] at hload
  refine ⟨_, _, mergesFrom_sta.exec_eq hindex hfield haddress, hload, rfl, ?_, fun j hj => ?_, rfl⟩
  · exact getField_setField_sign _ s.a _ _
  · obtain ⟨-, hright⟩ := hfield
    exact getField_setField_byte _ s.a hright hj

/-- A step, and the `HostRead` of a memory cell right after it. -/
theorem run_hostRead_mem {s t : State} {addr : Nat} {rest : List Transaction} (h : step s = .next t)
    (hp : t.pending = .hostRead (.mem addr) :: rest) (haddr : addr ≤ 3999) :
    Sys2Proof.core.run 2 s =
      .next { t with pending := rest, response := some (.value (.cell (t.mem.read addr).toImage)) } :=
  have hread := step_hostRead_of_ok hp (readLocation_mem_of_le t haddr)
  (run_succ 1 h).trans ((run_succ 0 hread).trans (run_zero _))

/-- The step of a store whose checks pass. -/
theorem MergesFrom.step_eq {mk : Operand → Instr} {opcode : Nat} {source : State → Cell}
    (h : MergesFrom mk opcode source) {o : Operand} {s : State} {rest : List Transaction} (hindex : o.index.toNat ≤ 6)
    (hfield : fieldValid o) (haddress : addressInRange o s) (hp : s.pending = .execute (encodeImage (mk o)) :: rest) :
    step s = .next (((s.setPending rest).setMem (effectiveAddress o s).toNat
      (mergeField o (effectiveAddress o s).toNat (source (s.setPending rest)) s)).returned .ok) :=
  calc step s
      = exec (mk o) (s.setPending rest) :=
        stepRunsTheDecodedInstruction s _ rest _ hp (decodeOfEncodeIsTheInstruction (mk o))
    _ = _ := h.exec_eq hindex hfield haddress

/-- The host reads the cell a store has merged, when the store's source does not depend on the pending list. -/
theorem MergesFrom.hostReadsStored {mk : Operand → Instr} {opcode : Nat} {source : State → Cell}
    (h : MergesFrom mk opcode source) (hsource : ∀ s ts, source (State.setPending s ts) = source s) :
    HostReadsStored mk source := by
  intro o s rest hindex hfield haddress hp
  have hstore := h.step_eq hindex hfield haddress hp
  rw [hsource] at hstore
  have ⟨_, hhigh⟩ := haddress
  have hrun := run_hostRead_mem hstore rfl (Int.toNat_le.mpr hhigh)
  rw [mem_read_setMem_returned] at hrun
  exact ⟨_, _, hrun, rfl, mergeField_sign _ _ _ _, fun _ => mergeField_byte hfield _ _ _, rfl⟩

/-- Settles O48: one lemma for a store of any cell the state holds, at each of the eight. -/
theorem hostReadSeesTheStore : Obligations.HostReadSeesTheStore :=
  ⟨mergesFrom_sta.hostReadsStored fun _ _ => rfl, mergesFrom_stx.hostReadsStored fun _ _ => rfl,
    fun r => (mergesFrom_storeIndex r).hostReadsStored fun s ts => by rw [State.setPending_readIndex]⟩

/-! ## A fault, retried -/

theorem Status.code_injective : Function.Injective Status.code := by
  intro e e'
  cases e <;> cases e' <;> simp [Status.code]

/-- Settles O21: the fault has changed nothing the status depends on, so the image's first failing check is the same. -/
theorem retriedFaultFaultsAgain : Obligations.RetriedFaultFaultsAgain := by
  intro s t w rest e hp hstep hresponse he
  obtain rfl := step_execute_eq_raise_of_fault hp hstep hresponse he
  obtain ⟨t, e₁, hfirst, hfirstResponse, hfirstCode⟩ := step_execute_returns_imageStatusCode hp
  obtain ⟨u, e₂, hagain, hagainResponse, hagainCode⟩ :=
    step_execute_returns_imageStatusCode (s := (s.setPending (.execute w :: rest)).raise e) rfl
  cases hfirst.symm.trans hstep
  cases hfirstResponse
  have hsame : e₂.code.toNat = e.code.toNat := hagainCode.trans hfirstCode.symm
  have he₂ : e₂ = e := Status.code_injective (BitVec.eq_of_toNat_eq hsame)
  exact ⟨u, hagain, he₂ ▸ hagainResponse⟩

end Machine
end Sys2Proof
